-- ==== Sys2Proof/Word.lean ====
section
/-! DEFINITION. The words of CORE (8-bit data, 16-bit addresses) and the fixed sets of names the spec uses:
index registers, general registers, register pairs, flags, the active-prefix marker, the prefix contexts. -/

namespace Sys2Proof

/-- An 8-bit value: a byte of memory, a general register, F (R10, R16, R40). -/
abbrev Byte := BitVec 8

/-- A 16-bit value: an address, IX, IY, SP, pc (R12, R13, R14, R40). -/
abbrev Word := BitVec 16

/-- The two index registers (R12). -/
inductive Index where
  | ix | iy
  deriving DecidableEq, Repr

/-- The seven 8-bit general registers (R10). -/
inductive Reg8 where
  | a | b | c | d | e | h | l
  deriving DecidableEq, Repr

/-- The register pairs of the resolver's second mode (R20, R103).
PRESUMED (log 20): the source does not say which registers pair. -/
inductive Pair where
  | bc | de | hl
  deriving DecidableEq, Repr

/-- The eight named bits of F (R16). -/
inductive Flag where
  | s | z | x5 | h | x3 | pv | n | c
  deriving DecidableEq, Repr

/-- The active-prefix marker: exactly three values (R21, 90_conflicts.md C11). -/
inductive Prefix where
  | none | indexX | indexY
  deriving DecidableEq, Repr

/-- The value ENTER_DD and ENTER_FD give the marker (R62, R63). -/
def Index.marker : Index → Prefix
  | .ix => .indexX
  | .iy => .indexY

/-- The seven prefix contexts, one dispatch table each (R60). -/
inductive Context where
  | none | cb | ed | dd | fd | ddcb | fdcb
  deriving DecidableEq, Repr

/-- Byte order of 16-bit data in memory: the open parameter `WORD_ORDER` (R43). -/
inductive WordOrder where
  | lowFirst | highFirst
  deriving DecidableEq, Repr, Inhabited

end Sys2Proof
end

