-- ==== Sys2Proof/Config.lean ====
section
/-! DEFINITION. The implementation parameters of rule R4: what is fixed for one machine and is neither state nor
instruction. Every number that the spec takes from general knowledge is marked. -/

namespace Sys2Proof

/-- `FLAG_POS`: the bit positions in F of the six flags whose position the source does not give (R4, R16). -/
structure FlagPos where
  s : Nat
  z : Nat
  h : Nat
  pv : Nat
  n : Nat
  c : Nat
  deriving DecidableEq, Repr

namespace Config

/-- The default of `FLAG_POS` (R4, R16, D6). PRESUMED (log 4): general knowledge, unsafe for claims on F as a byte. -/
def flagPos : FlagPos := { s := 7, z := 6, h := 4, pv := 2, n := 1, c := 0 }

/-- The one-bit mask of each flag inside F (R16). X5 = bit 5 and X3 = bit 3 are the source's own (R17). -/
def flagMask : Flag → Byte
  | .s => 1#8 <<< flagPos.s
  | .z => 1#8 <<< flagPos.z
  | .x5 => 0x20#8
  | .h => 1#8 <<< flagPos.h
  | .x3 => 0x08#8
  | .pv => 1#8 <<< flagPos.pv
  | .n => 1#8 <<< flagPos.n
  | .c => 1#8 <<< flagPos.c

/-- Cycle cost of `BIT b,(XY+d)` (R112, R198). -/
def costBit : Nat := 20

/-- `COST_RL` (R4, R122, R198). PRESUMED (log 6): the spec's default, no number in the source; unsafe for cyc only. -/
def costRl : Nat := 23

/-- Cycle cost of `SRA (XY+d)[,reg]` (R124, R198). -/
def costSra : Nat := 23

/-- Cycle cost of `SET b,(XY+d)[,reg]` (R132, R198). -/
def costSet : Nat := 23

/-- Cycle cost of the instructions of 44_gk_indexed_bit_remainder.md (R140, R198).
PRESUMED (log 6): general knowledge. -/
def costGk : Nat := 23

/-- `ADMIT_GK_EXT` (R4, D20) of the machine behind `step`. DESIGN CHOICE (log 3): on, so that every row of the
opcode table runs; `stepWith` takes either value. Unsafe where the real core differs from a Z80. -/
def admitGkExt : Bool := true

/-- `WORD_ORDER` (R43, D18): left open, read by nothing the spec admits (log 21). -/
opaque wordOrder : WordOrder

/-- What a byte of RAM that nothing has written reads as.
DESIGN CHOICE (log 8): the spec fixes no RAM contents; unsafe. -/
def unlistedByte : Byte := 0x00#8

/-- The value of every 8-bit register at reset. DESIGN CHOICE (log 1): the spec leaves INIT free; unsafe. -/
def initByte : Byte := 0x00#8

/-- The value of every 16-bit register at reset. DESIGN CHOICE (log 1): the spec leaves INIT free; unsafe. -/
def initWord : Word := 0x0000#16

end Config

end Sys2Proof
end

