-- ==== Sys2Proof/Syntax.lean ====
section
/-! DEFINITION. The instructions: one constructor per row of spec/opcode_table.json, in the table's order, named after the
row (operation, index register, copy register; no copy register is the memory-only form r = 6). Operands are the row's
fields: b the bit number, d the displacement byte, r the save sub-field, which BIT carries and ignores (R111). -/

namespace Sys2Proof

/-- The 162 instructions of the opcode table: tables DD-CB and FD-CB whole (R67, R148). -/
inductive Instr where
  /-- `BIT b,(IX+d)` (R112, R113) -/
  | bitIx (b : BitVec 3) (d : Byte) (r : BitVec 3)
  /-- `RL (IX+d),B` (R122, R123) -/
  | rlIxB (d : Byte)
  /-- `RL (IX+d),C` (R122, R123) -/
  | rlIxC (d : Byte)
  /-- `RL (IX+d),D` (R122, R123) -/
  | rlIxD (d : Byte)
  /-- `RL (IX+d),E` (R122, R123) -/
  | rlIxE (d : Byte)
  /-- `RL (IX+d),H` (R122, R123) -/
  | rlIxH (d : Byte)
  /-- `RL (IX+d),L` (R122, R123) -/
  | rlIxL (d : Byte)
  /-- `RL (IX+d)` (R122, R123) -/
  | rlIx (d : Byte)
  /-- `RL (IX+d),A` (R122, R123) -/
  | rlIxA (d : Byte)
  /-- `SRA (IX+d),B` (R124, R125) -/
  | sraIxB (d : Byte)
  /-- `SRA (IX+d),C` (R124, R125) -/
  | sraIxC (d : Byte)
  /-- `SRA (IX+d),D` (R124, R125) -/
  | sraIxD (d : Byte)
  /-- `SRA (IX+d),E` (R124, R125) -/
  | sraIxE (d : Byte)
  /-- `SRA (IX+d),H` (R124, R125) -/
  | sraIxH (d : Byte)
  /-- `SRA (IX+d),L` (R124, R125) -/
  | sraIxL (d : Byte)
  /-- `SRA (IX+d)` (R124, R125) -/
  | sraIx (d : Byte)
  /-- `SRA (IX+d),A` (R124, R125) -/
  | sraIxA (d : Byte)
  /-- `SET b,(IX+d),B` (R132, R133) -/
  | setIxB (b : BitVec 3) (d : Byte)
  /-- `SET b,(IX+d),C` (R132, R133) -/
  | setIxC (b : BitVec 3) (d : Byte)
  /-- `SET b,(IX+d),D` (R132, R133) -/
  | setIxD (b : BitVec 3) (d : Byte)
  /-- `SET b,(IX+d),E` (R132, R133) -/
  | setIxE (b : BitVec 3) (d : Byte)
  /-- `SET b,(IX+d),H` (R132, R133) -/
  | setIxH (b : BitVec 3) (d : Byte)
  /-- `SET b,(IX+d),L` (R132, R133) -/
  | setIxL (b : BitVec 3) (d : Byte)
  /-- `SET b,(IX+d)` (R132, R133) -/
  | setIx (b : BitVec 3) (d : Byte)
  /-- `SET b,(IX+d),A` (R132, R133) -/
  | setIxA (b : BitVec 3) (d : Byte)
  /-- `RLC (IX+d),B` (R141, R148) -/
  | rlcIxB (d : Byte)
  /-- `RLC (IX+d),C` (R141, R148) -/
  | rlcIxC (d : Byte)
  /-- `RLC (IX+d),D` (R141, R148) -/
  | rlcIxD (d : Byte)
  /-- `RLC (IX+d),E` (R141, R148) -/
  | rlcIxE (d : Byte)
  /-- `RLC (IX+d),H` (R141, R148) -/
  | rlcIxH (d : Byte)
  /-- `RLC (IX+d),L` (R141, R148) -/
  | rlcIxL (d : Byte)
  /-- `RLC (IX+d)` (R141, R148) -/
  | rlcIx (d : Byte)
  /-- `RLC (IX+d),A` (R141, R148) -/
  | rlcIxA (d : Byte)
  /-- `RRC (IX+d),B` (R142, R148) -/
  | rrcIxB (d : Byte)
  /-- `RRC (IX+d),C` (R142, R148) -/
  | rrcIxC (d : Byte)
  /-- `RRC (IX+d),D` (R142, R148) -/
  | rrcIxD (d : Byte)
  /-- `RRC (IX+d),E` (R142, R148) -/
  | rrcIxE (d : Byte)
  /-- `RRC (IX+d),H` (R142, R148) -/
  | rrcIxH (d : Byte)
  /-- `RRC (IX+d),L` (R142, R148) -/
  | rrcIxL (d : Byte)
  /-- `RRC (IX+d)` (R142, R148) -/
  | rrcIx (d : Byte)
  /-- `RRC (IX+d),A` (R142, R148) -/
  | rrcIxA (d : Byte)
  /-- `RR (IX+d),B` (R143, R148) -/
  | rrIxB (d : Byte)
  /-- `RR (IX+d),C` (R143, R148) -/
  | rrIxC (d : Byte)
  /-- `RR (IX+d),D` (R143, R148) -/
  | rrIxD (d : Byte)
  /-- `RR (IX+d),E` (R143, R148) -/
  | rrIxE (d : Byte)
  /-- `RR (IX+d),H` (R143, R148) -/
  | rrIxH (d : Byte)
  /-- `RR (IX+d),L` (R143, R148) -/
  | rrIxL (d : Byte)
  /-- `RR (IX+d)` (R143, R148) -/
  | rrIx (d : Byte)
  /-- `RR (IX+d),A` (R143, R148) -/
  | rrIxA (d : Byte)
  /-- `SLA (IX+d),B` (R144, R148) -/
  | slaIxB (d : Byte)
  /-- `SLA (IX+d),C` (R144, R148) -/
  | slaIxC (d : Byte)
  /-- `SLA (IX+d),D` (R144, R148) -/
  | slaIxD (d : Byte)
  /-- `SLA (IX+d),E` (R144, R148) -/
  | slaIxE (d : Byte)
  /-- `SLA (IX+d),H` (R144, R148) -/
  | slaIxH (d : Byte)
  /-- `SLA (IX+d),L` (R144, R148) -/
  | slaIxL (d : Byte)
  /-- `SLA (IX+d)` (R144, R148) -/
  | slaIx (d : Byte)
  /-- `SLA (IX+d),A` (R144, R148) -/
  | slaIxA (d : Byte)
  /-- `SLL (IX+d),B` (R145, R148) -/
  | sllIxB (d : Byte)
  /-- `SLL (IX+d),C` (R145, R148) -/
  | sllIxC (d : Byte)
  /-- `SLL (IX+d),D` (R145, R148) -/
  | sllIxD (d : Byte)
  /-- `SLL (IX+d),E` (R145, R148) -/
  | sllIxE (d : Byte)
  /-- `SLL (IX+d),H` (R145, R148) -/
  | sllIxH (d : Byte)
  /-- `SLL (IX+d),L` (R145, R148) -/
  | sllIxL (d : Byte)
  /-- `SLL (IX+d)` (R145, R148) -/
  | sllIx (d : Byte)
  /-- `SLL (IX+d),A` (R145, R148) -/
  | sllIxA (d : Byte)
  /-- `SRL (IX+d),B` (R146, R148) -/
  | srlIxB (d : Byte)
  /-- `SRL (IX+d),C` (R146, R148) -/
  | srlIxC (d : Byte)
  /-- `SRL (IX+d),D` (R146, R148) -/
  | srlIxD (d : Byte)
  /-- `SRL (IX+d),E` (R146, R148) -/
  | srlIxE (d : Byte)
  /-- `SRL (IX+d),H` (R146, R148) -/
  | srlIxH (d : Byte)
  /-- `SRL (IX+d),L` (R146, R148) -/
  | srlIxL (d : Byte)
  /-- `SRL (IX+d)` (R146, R148) -/
  | srlIx (d : Byte)
  /-- `SRL (IX+d),A` (R146, R148) -/
  | srlIxA (d : Byte)
  /-- `RES b,(IX+d),B` (R147, R148) -/
  | resIxB (b : BitVec 3) (d : Byte)
  /-- `RES b,(IX+d),C` (R147, R148) -/
  | resIxC (b : BitVec 3) (d : Byte)
  /-- `RES b,(IX+d),D` (R147, R148) -/
  | resIxD (b : BitVec 3) (d : Byte)
  /-- `RES b,(IX+d),E` (R147, R148) -/
  | resIxE (b : BitVec 3) (d : Byte)
  /-- `RES b,(IX+d),H` (R147, R148) -/
  | resIxH (b : BitVec 3) (d : Byte)
  /-- `RES b,(IX+d),L` (R147, R148) -/
  | resIxL (b : BitVec 3) (d : Byte)
  /-- `RES b,(IX+d)` (R147, R148) -/
  | resIx (b : BitVec 3) (d : Byte)
  /-- `RES b,(IX+d),A` (R147, R148) -/
  | resIxA (b : BitVec 3) (d : Byte)
  /-- `BIT b,(IY+d)` (R112, R113) -/
  | bitIy (b : BitVec 3) (d : Byte) (r : BitVec 3)
  /-- `RL (IY+d),B` (R122, R123) -/
  | rlIyB (d : Byte)
  /-- `RL (IY+d),C` (R122, R123) -/
  | rlIyC (d : Byte)
  /-- `RL (IY+d),D` (R122, R123) -/
  | rlIyD (d : Byte)
  /-- `RL (IY+d),E` (R122, R123) -/
  | rlIyE (d : Byte)
  /-- `RL (IY+d),H` (R122, R123) -/
  | rlIyH (d : Byte)
  /-- `RL (IY+d),L` (R122, R123) -/
  | rlIyL (d : Byte)
  /-- `RL (IY+d)` (R122, R123) -/
  | rlIy (d : Byte)
  /-- `RL (IY+d),A` (R122, R123) -/
  | rlIyA (d : Byte)
  /-- `SRA (IY+d),B` (R124, R125) -/
  | sraIyB (d : Byte)
  /-- `SRA (IY+d),C` (R124, R125) -/
  | sraIyC (d : Byte)
  /-- `SRA (IY+d),D` (R124, R125) -/
  | sraIyD (d : Byte)
  /-- `SRA (IY+d),E` (R124, R125) -/
  | sraIyE (d : Byte)
  /-- `SRA (IY+d),H` (R124, R125) -/
  | sraIyH (d : Byte)
  /-- `SRA (IY+d),L` (R124, R125) -/
  | sraIyL (d : Byte)
  /-- `SRA (IY+d)` (R124, R125) -/
  | sraIy (d : Byte)
  /-- `SRA (IY+d),A` (R124, R125) -/
  | sraIyA (d : Byte)
  /-- `SET b,(IY+d),B` (R132, R133) -/
  | setIyB (b : BitVec 3) (d : Byte)
  /-- `SET b,(IY+d),C` (R132, R133) -/
  | setIyC (b : BitVec 3) (d : Byte)
  /-- `SET b,(IY+d),D` (R132, R133) -/
  | setIyD (b : BitVec 3) (d : Byte)
  /-- `SET b,(IY+d),E` (R132, R133) -/
  | setIyE (b : BitVec 3) (d : Byte)
  /-- `SET b,(IY+d),H` (R132, R133) -/
  | setIyH (b : BitVec 3) (d : Byte)
  /-- `SET b,(IY+d),L` (R132, R133) -/
  | setIyL (b : BitVec 3) (d : Byte)
  /-- `SET b,(IY+d)` (R132, R133) -/
  | setIy (b : BitVec 3) (d : Byte)
  /-- `SET b,(IY+d),A` (R132, R133) -/
  | setIyA (b : BitVec 3) (d : Byte)
  /-- `RLC (IY+d),B` (R141, R148) -/
  | rlcIyB (d : Byte)
  /-- `RLC (IY+d),C` (R141, R148) -/
  | rlcIyC (d : Byte)
  /-- `RLC (IY+d),D` (R141, R148) -/
  | rlcIyD (d : Byte)
  /-- `RLC (IY+d),E` (R141, R148) -/
  | rlcIyE (d : Byte)
  /-- `RLC (IY+d),H` (R141, R148) -/
  | rlcIyH (d : Byte)
  /-- `RLC (IY+d),L` (R141, R148) -/
  | rlcIyL (d : Byte)
  /-- `RLC (IY+d)` (R141, R148) -/
  | rlcIy (d : Byte)
  /-- `RLC (IY+d),A` (R141, R148) -/
  | rlcIyA (d : Byte)
  /-- `RRC (IY+d),B` (R142, R148) -/
  | rrcIyB (d : Byte)
  /-- `RRC (IY+d),C` (R142, R148) -/
  | rrcIyC (d : Byte)
  /-- `RRC (IY+d),D` (R142, R148) -/
  | rrcIyD (d : Byte)
  /-- `RRC (IY+d),E` (R142, R148) -/
  | rrcIyE (d : Byte)
  /-- `RRC (IY+d),H` (R142, R148) -/
  | rrcIyH (d : Byte)
  /-- `RRC (IY+d),L` (R142, R148) -/
  | rrcIyL (d : Byte)
  /-- `RRC (IY+d)` (R142, R148) -/
  | rrcIy (d : Byte)
  /-- `RRC (IY+d),A` (R142, R148) -/
  | rrcIyA (d : Byte)
  /-- `RR (IY+d),B` (R143, R148) -/
  | rrIyB (d : Byte)
  /-- `RR (IY+d),C` (R143, R148) -/
  | rrIyC (d : Byte)
  /-- `RR (IY+d),D` (R143, R148) -/
  | rrIyD (d : Byte)
  /-- `RR (IY+d),E` (R143, R148) -/
  | rrIyE (d : Byte)
  /-- `RR (IY+d),H` (R143, R148) -/
  | rrIyH (d : Byte)
  /-- `RR (IY+d),L` (R143, R148) -/
  | rrIyL (d : Byte)
  /-- `RR (IY+d)` (R143, R148) -/
  | rrIy (d : Byte)
  /-- `RR (IY+d),A` (R143, R148) -/
  | rrIyA (d : Byte)
  /-- `SLA (IY+d),B` (R144, R148) -/
  | slaIyB (d : Byte)
  /-- `SLA (IY+d),C` (R144, R148) -/
  | slaIyC (d : Byte)
  /-- `SLA (IY+d),D` (R144, R148) -/
  | slaIyD (d : Byte)
  /-- `SLA (IY+d),E` (R144, R148) -/
  | slaIyE (d : Byte)
  /-- `SLA (IY+d),H` (R144, R148) -/
  | slaIyH (d : Byte)
  /-- `SLA (IY+d),L` (R144, R148) -/
  | slaIyL (d : Byte)
  /-- `SLA (IY+d)` (R144, R148) -/
  | slaIy (d : Byte)
  /-- `SLA (IY+d),A` (R144, R148) -/
  | slaIyA (d : Byte)
  /-- `SLL (IY+d),B` (R145, R148) -/
  | sllIyB (d : Byte)
  /-- `SLL (IY+d),C` (R145, R148) -/
  | sllIyC (d : Byte)
  /-- `SLL (IY+d),D` (R145, R148) -/
  | sllIyD (d : Byte)
  /-- `SLL (IY+d),E` (R145, R148) -/
  | sllIyE (d : Byte)
  /-- `SLL (IY+d),H` (R145, R148) -/
  | sllIyH (d : Byte)
  /-- `SLL (IY+d),L` (R145, R148) -/
  | sllIyL (d : Byte)
  /-- `SLL (IY+d)` (R145, R148) -/
  | sllIy (d : Byte)
  /-- `SLL (IY+d),A` (R145, R148) -/
  | sllIyA (d : Byte)
  /-- `SRL (IY+d),B` (R146, R148) -/
  | srlIyB (d : Byte)
  /-- `SRL (IY+d),C` (R146, R148) -/
  | srlIyC (d : Byte)
  /-- `SRL (IY+d),D` (R146, R148) -/
  | srlIyD (d : Byte)
  /-- `SRL (IY+d),E` (R146, R148) -/
  | srlIyE (d : Byte)
  /-- `SRL (IY+d),H` (R146, R148) -/
  | srlIyH (d : Byte)
  /-- `SRL (IY+d),L` (R146, R148) -/
  | srlIyL (d : Byte)
  /-- `SRL (IY+d)` (R146, R148) -/
  | srlIy (d : Byte)
  /-- `SRL (IY+d),A` (R146, R148) -/
  | srlIyA (d : Byte)
  /-- `RES b,(IY+d),B` (R147, R148) -/
  | resIyB (b : BitVec 3) (d : Byte)
  /-- `RES b,(IY+d),C` (R147, R148) -/
  | resIyC (b : BitVec 3) (d : Byte)
  /-- `RES b,(IY+d),D` (R147, R148) -/
  | resIyD (b : BitVec 3) (d : Byte)
  /-- `RES b,(IY+d),E` (R147, R148) -/
  | resIyE (b : BitVec 3) (d : Byte)
  /-- `RES b,(IY+d),H` (R147, R148) -/
  | resIyH (b : BitVec 3) (d : Byte)
  /-- `RES b,(IY+d),L` (R147, R148) -/
  | resIyL (b : BitVec 3) (d : Byte)
  /-- `RES b,(IY+d)` (R147, R148) -/
  | resIy (b : BitVec 3) (d : Byte)
  /-- `RES b,(IY+d),A` (R147, R148) -/
  | resIyA (b : BitVec 3) (d : Byte)
  deriving DecidableEq, Repr

end Sys2Proof
end

