-- ==== Sys2Proof/WellFormed.lean ====
section
/-! DEFINITION. When an instruction is one the machine admits. Operands need no check: their types are exactly the fields
of the encoding (R65, R66), so an operand out of range cannot be written. The one check is admission (R4, R65, R70). -/

namespace Sys2Proof

/-- The "gk" column of the opcode table: the rows of 44_gk_indexed_bit_remainder.md, given from general knowledge. -/
def Instr.gk : Instr → Bool
  | .bitIx _ _ _ => false
  | .rlIxB _ => false
  | .rlIxC _ => false
  | .rlIxD _ => false
  | .rlIxE _ => false
  | .rlIxH _ => false
  | .rlIxL _ => false
  | .rlIx _ => false
  | .rlIxA _ => false
  | .sraIxB _ => false
  | .sraIxC _ => false
  | .sraIxD _ => false
  | .sraIxE _ => false
  | .sraIxH _ => false
  | .sraIxL _ => false
  | .sraIx _ => false
  | .sraIxA _ => false
  | .setIxB _ _ => false
  | .setIxC _ _ => false
  | .setIxD _ _ => false
  | .setIxE _ _ => false
  | .setIxH _ _ => false
  | .setIxL _ _ => false
  | .setIx _ _ => false
  | .setIxA _ _ => false
  | .rlcIxB _ => true
  | .rlcIxC _ => true
  | .rlcIxD _ => true
  | .rlcIxE _ => true
  | .rlcIxH _ => true
  | .rlcIxL _ => true
  | .rlcIx _ => true
  | .rlcIxA _ => true
  | .rrcIxB _ => true
  | .rrcIxC _ => true
  | .rrcIxD _ => true
  | .rrcIxE _ => true
  | .rrcIxH _ => true
  | .rrcIxL _ => true
  | .rrcIx _ => true
  | .rrcIxA _ => true
  | .rrIxB _ => true
  | .rrIxC _ => true
  | .rrIxD _ => true
  | .rrIxE _ => true
  | .rrIxH _ => true
  | .rrIxL _ => true
  | .rrIx _ => true
  | .rrIxA _ => true
  | .slaIxB _ => true
  | .slaIxC _ => true
  | .slaIxD _ => true
  | .slaIxE _ => true
  | .slaIxH _ => true
  | .slaIxL _ => true
  | .slaIx _ => true
  | .slaIxA _ => true
  | .sllIxB _ => true
  | .sllIxC _ => true
  | .sllIxD _ => true
  | .sllIxE _ => true
  | .sllIxH _ => true
  | .sllIxL _ => true
  | .sllIx _ => true
  | .sllIxA _ => true
  | .srlIxB _ => true
  | .srlIxC _ => true
  | .srlIxD _ => true
  | .srlIxE _ => true
  | .srlIxH _ => true
  | .srlIxL _ => true
  | .srlIx _ => true
  | .srlIxA _ => true
  | .resIxB _ _ => true
  | .resIxC _ _ => true
  | .resIxD _ _ => true
  | .resIxE _ _ => true
  | .resIxH _ _ => true
  | .resIxL _ _ => true
  | .resIx _ _ => true
  | .resIxA _ _ => true
  | .bitIy _ _ _ => false
  | .rlIyB _ => false
  | .rlIyC _ => false
  | .rlIyD _ => false
  | .rlIyE _ => false
  | .rlIyH _ => false
  | .rlIyL _ => false
  | .rlIy _ => false
  | .rlIyA _ => false
  | .sraIyB _ => false
  | .sraIyC _ => false
  | .sraIyD _ => false
  | .sraIyE _ => false
  | .sraIyH _ => false
  | .sraIyL _ => false
  | .sraIy _ => false
  | .sraIyA _ => false
  | .setIyB _ _ => false
  | .setIyC _ _ => false
  | .setIyD _ _ => false
  | .setIyE _ _ => false
  | .setIyH _ _ => false
  | .setIyL _ _ => false
  | .setIy _ _ => false
  | .setIyA _ _ => false
  | .rlcIyB _ => true
  | .rlcIyC _ => true
  | .rlcIyD _ => true
  | .rlcIyE _ => true
  | .rlcIyH _ => true
  | .rlcIyL _ => true
  | .rlcIy _ => true
  | .rlcIyA _ => true
  | .rrcIyB _ => true
  | .rrcIyC _ => true
  | .rrcIyD _ => true
  | .rrcIyE _ => true
  | .rrcIyH _ => true
  | .rrcIyL _ => true
  | .rrcIy _ => true
  | .rrcIyA _ => true
  | .rrIyB _ => true
  | .rrIyC _ => true
  | .rrIyD _ => true
  | .rrIyE _ => true
  | .rrIyH _ => true
  | .rrIyL _ => true
  | .rrIy _ => true
  | .rrIyA _ => true
  | .slaIyB _ => true
  | .slaIyC _ => true
  | .slaIyD _ => true
  | .slaIyE _ => true
  | .slaIyH _ => true
  | .slaIyL _ => true
  | .slaIy _ => true
  | .slaIyA _ => true
  | .sllIyB _ => true
  | .sllIyC _ => true
  | .sllIyD _ => true
  | .sllIyE _ => true
  | .sllIyH _ => true
  | .sllIyL _ => true
  | .sllIy _ => true
  | .sllIyA _ => true
  | .srlIyB _ => true
  | .srlIyC _ => true
  | .srlIyD _ => true
  | .srlIyE _ => true
  | .srlIyH _ => true
  | .srlIyL _ => true
  | .srlIy _ => true
  | .srlIyA _ => true
  | .resIyB _ _ => true
  | .resIyC _ _ => true
  | .resIyD _ _ => true
  | .resIyE _ _ => true
  | .resIyH _ _ => true
  | .resIyL _ _ => true
  | .resIy _ _ => true
  | .resIyA _ _ => true

/-- Admitted under a value of `ADMIT_GK_EXT`: the "admitted" column of the opcode table (R4, R65). -/
def Instr.wf (admitGk : Bool) (i : Instr) : Bool := admitGk || !i.gk

/-- Admitted by the machine behind `step`. -/
def WellFormed (i : Instr) : Bool := i.wf Config.admitGkExt

end Sys2Proof
end

