-- ==== Sys2Proof/Decode.lean ====
section
/-! DEFINITION. The decoder, total on any bytes, and after it the encoder. The decoder is the dispatch state machine of
rule R62 over any source of bytes: the machine's fetch runs it over the Bus, `decode` over a list of bytes. The
numeric layer (prefix byte values, opcode-byte values and field positions) is the default of `ENC`:
PRESUMED (log 5), unsafe for claims about byte values only. -/

namespace Sys2Proof

/-! ### The fields of format XYCB -/

/-- The index byte that enters the DD or FD context (R61, R65, D4). -/
def Index.byte : Index → Byte
  | .ix => 0xDD#8
  | .iy => 0xFD#8

/-- The byte that enters the CB context, alone or after an index byte (R61, R62). -/
def cbByte : Byte := 0xCB#8

/-- The byte that enters the ED context (R61). -/
def edByte : Byte := 0xED#8

/-- The context of a direct opcode after an index byte (R62). -/
def Index.context : Index → Context
  | .ix => .dd
  | .iy => .fd

/-- The context of an indexed-bit-operation (R62). -/
def Index.bitContext : Index → Context
  | .ix => .ddcb
  | .iy => .fdcb

/-- `reg8(r)` (R104): the register a save sub-field names; value 6 is memory-only. -/
def reg8 (r : BitVec 3) : Option Reg8 :=
  match r.toNat with
  | 0 => some .b
  | 1 => some .c
  | 2 => some .d
  | 3 => some .e
  | 4 => some .h
  | 5 => some .l
  | 6 => none
  | _ => some .a

/-- The save sub-field of a copy register (R104). -/
def saveBits : Option Reg8 → BitVec 3
  | some .b => 0#3
  | some .c => 1#3
  | some .d => 2#3
  | some .e => 3#3
  | some .h => 4#3
  | some .l => 5#3
  | none => 6#3
  | some .a => 7#3

/-- The eight operations of class 0 (R67; RLC, RRC, RR, SLA, SLL, SRL: 44_gk_indexed_bit_remainder.md). -/
inductive ShiftKind where
  | rlc | rrc | rl | rr | sla | sra | sll | srl
  deriving DecidableEq, Repr

/-- The operation that the y field selects in class 0 (R67, R141 to R146). -/
def ShiftKind.ofY (y : BitVec 3) : ShiftKind :=
  match y.toNat with
  | 0 => .rlc
  | 1 => .rrc
  | 2 => .rl
  | 3 => .rr
  | 4 => .sla
  | 5 => .sra
  | 6 => .sll
  | _ => .srl

/-- The y field of a class 0 operation (R67, R141 to R146). -/
def ShiftKind.y : ShiftKind → BitVec 3
  | .rlc => 0#3
  | .rrc => 1#3
  | .rl => 2#3
  | .rr => 3#3
  | .sla => 4#3
  | .sra => 5#3
  | .sll => 6#3
  | .srl => 7#3

/-- An instruction by its operands: operation class, index register, bit number, save sub-field, displacement. -/
inductive Shape where
  | shift (k : ShiftKind) (x : Index) (save : Option Reg8) (d : Byte)
  | bit (x : Index) (b r : BitVec 3) (d : Byte)
  | res (x : Index) (b : BitVec 3) (save : Option Reg8) (d : Byte)
  | set (x : Index) (b : BitVec 3) (save : Option Reg8) (d : Byte)
  deriving DecidableEq, Repr

/-- The table row of an operand form. -/
def Instr.ofShape : Shape → Instr
  | .bit .ix b r d => .bitIx b d r
  | .shift .rl .ix (some .b) d => .rlIxB d
  | .shift .rl .ix (some .c) d => .rlIxC d
  | .shift .rl .ix (some .d) d => .rlIxD d
  | .shift .rl .ix (some .e) d => .rlIxE d
  | .shift .rl .ix (some .h) d => .rlIxH d
  | .shift .rl .ix (some .l) d => .rlIxL d
  | .shift .rl .ix none d => .rlIx d
  | .shift .rl .ix (some .a) d => .rlIxA d
  | .shift .sra .ix (some .b) d => .sraIxB d
  | .shift .sra .ix (some .c) d => .sraIxC d
  | .shift .sra .ix (some .d) d => .sraIxD d
  | .shift .sra .ix (some .e) d => .sraIxE d
  | .shift .sra .ix (some .h) d => .sraIxH d
  | .shift .sra .ix (some .l) d => .sraIxL d
  | .shift .sra .ix none d => .sraIx d
  | .shift .sra .ix (some .a) d => .sraIxA d
  | .set .ix b (some .b) d => .setIxB b d
  | .set .ix b (some .c) d => .setIxC b d
  | .set .ix b (some .d) d => .setIxD b d
  | .set .ix b (some .e) d => .setIxE b d
  | .set .ix b (some .h) d => .setIxH b d
  | .set .ix b (some .l) d => .setIxL b d
  | .set .ix b none d => .setIx b d
  | .set .ix b (some .a) d => .setIxA b d
  | .shift .rlc .ix (some .b) d => .rlcIxB d
  | .shift .rlc .ix (some .c) d => .rlcIxC d
  | .shift .rlc .ix (some .d) d => .rlcIxD d
  | .shift .rlc .ix (some .e) d => .rlcIxE d
  | .shift .rlc .ix (some .h) d => .rlcIxH d
  | .shift .rlc .ix (some .l) d => .rlcIxL d
  | .shift .rlc .ix none d => .rlcIx d
  | .shift .rlc .ix (some .a) d => .rlcIxA d
  | .shift .rrc .ix (some .b) d => .rrcIxB d
  | .shift .rrc .ix (some .c) d => .rrcIxC d
  | .shift .rrc .ix (some .d) d => .rrcIxD d
  | .shift .rrc .ix (some .e) d => .rrcIxE d
  | .shift .rrc .ix (some .h) d => .rrcIxH d
  | .shift .rrc .ix (some .l) d => .rrcIxL d
  | .shift .rrc .ix none d => .rrcIx d
  | .shift .rrc .ix (some .a) d => .rrcIxA d
  | .shift .rr .ix (some .b) d => .rrIxB d
  | .shift .rr .ix (some .c) d => .rrIxC d
  | .shift .rr .ix (some .d) d => .rrIxD d
  | .shift .rr .ix (some .e) d => .rrIxE d
  | .shift .rr .ix (some .h) d => .rrIxH d
  | .shift .rr .ix (some .l) d => .rrIxL d
  | .shift .rr .ix none d => .rrIx d
  | .shift .rr .ix (some .a) d => .rrIxA d
  | .shift .sla .ix (some .b) d => .slaIxB d
  | .shift .sla .ix (some .c) d => .slaIxC d
  | .shift .sla .ix (some .d) d => .slaIxD d
  | .shift .sla .ix (some .e) d => .slaIxE d
  | .shift .sla .ix (some .h) d => .slaIxH d
  | .shift .sla .ix (some .l) d => .slaIxL d
  | .shift .sla .ix none d => .slaIx d
  | .shift .sla .ix (some .a) d => .slaIxA d
  | .shift .sll .ix (some .b) d => .sllIxB d
  | .shift .sll .ix (some .c) d => .sllIxC d
  | .shift .sll .ix (some .d) d => .sllIxD d
  | .shift .sll .ix (some .e) d => .sllIxE d
  | .shift .sll .ix (some .h) d => .sllIxH d
  | .shift .sll .ix (some .l) d => .sllIxL d
  | .shift .sll .ix none d => .sllIx d
  | .shift .sll .ix (some .a) d => .sllIxA d
  | .shift .srl .ix (some .b) d => .srlIxB d
  | .shift .srl .ix (some .c) d => .srlIxC d
  | .shift .srl .ix (some .d) d => .srlIxD d
  | .shift .srl .ix (some .e) d => .srlIxE d
  | .shift .srl .ix (some .h) d => .srlIxH d
  | .shift .srl .ix (some .l) d => .srlIxL d
  | .shift .srl .ix none d => .srlIx d
  | .shift .srl .ix (some .a) d => .srlIxA d
  | .res .ix b (some .b) d => .resIxB b d
  | .res .ix b (some .c) d => .resIxC b d
  | .res .ix b (some .d) d => .resIxD b d
  | .res .ix b (some .e) d => .resIxE b d
  | .res .ix b (some .h) d => .resIxH b d
  | .res .ix b (some .l) d => .resIxL b d
  | .res .ix b none d => .resIx b d
  | .res .ix b (some .a) d => .resIxA b d
  | .bit .iy b r d => .bitIy b d r
  | .shift .rl .iy (some .b) d => .rlIyB d
  | .shift .rl .iy (some .c) d => .rlIyC d
  | .shift .rl .iy (some .d) d => .rlIyD d
  | .shift .rl .iy (some .e) d => .rlIyE d
  | .shift .rl .iy (some .h) d => .rlIyH d
  | .shift .rl .iy (some .l) d => .rlIyL d
  | .shift .rl .iy none d => .rlIy d
  | .shift .rl .iy (some .a) d => .rlIyA d
  | .shift .sra .iy (some .b) d => .sraIyB d
  | .shift .sra .iy (some .c) d => .sraIyC d
  | .shift .sra .iy (some .d) d => .sraIyD d
  | .shift .sra .iy (some .e) d => .sraIyE d
  | .shift .sra .iy (some .h) d => .sraIyH d
  | .shift .sra .iy (some .l) d => .sraIyL d
  | .shift .sra .iy none d => .sraIy d
  | .shift .sra .iy (some .a) d => .sraIyA d
  | .set .iy b (some .b) d => .setIyB b d
  | .set .iy b (some .c) d => .setIyC b d
  | .set .iy b (some .d) d => .setIyD b d
  | .set .iy b (some .e) d => .setIyE b d
  | .set .iy b (some .h) d => .setIyH b d
  | .set .iy b (some .l) d => .setIyL b d
  | .set .iy b none d => .setIy b d
  | .set .iy b (some .a) d => .setIyA b d
  | .shift .rlc .iy (some .b) d => .rlcIyB d
  | .shift .rlc .iy (some .c) d => .rlcIyC d
  | .shift .rlc .iy (some .d) d => .rlcIyD d
  | .shift .rlc .iy (some .e) d => .rlcIyE d
  | .shift .rlc .iy (some .h) d => .rlcIyH d
  | .shift .rlc .iy (some .l) d => .rlcIyL d
  | .shift .rlc .iy none d => .rlcIy d
  | .shift .rlc .iy (some .a) d => .rlcIyA d
  | .shift .rrc .iy (some .b) d => .rrcIyB d
  | .shift .rrc .iy (some .c) d => .rrcIyC d
  | .shift .rrc .iy (some .d) d => .rrcIyD d
  | .shift .rrc .iy (some .e) d => .rrcIyE d
  | .shift .rrc .iy (some .h) d => .rrcIyH d
  | .shift .rrc .iy (some .l) d => .rrcIyL d
  | .shift .rrc .iy none d => .rrcIy d
  | .shift .rrc .iy (some .a) d => .rrcIyA d
  | .shift .rr .iy (some .b) d => .rrIyB d
  | .shift .rr .iy (some .c) d => .rrIyC d
  | .shift .rr .iy (some .d) d => .rrIyD d
  | .shift .rr .iy (some .e) d => .rrIyE d
  | .shift .rr .iy (some .h) d => .rrIyH d
  | .shift .rr .iy (some .l) d => .rrIyL d
  | .shift .rr .iy none d => .rrIy d
  | .shift .rr .iy (some .a) d => .rrIyA d
  | .shift .sla .iy (some .b) d => .slaIyB d
  | .shift .sla .iy (some .c) d => .slaIyC d
  | .shift .sla .iy (some .d) d => .slaIyD d
  | .shift .sla .iy (some .e) d => .slaIyE d
  | .shift .sla .iy (some .h) d => .slaIyH d
  | .shift .sla .iy (some .l) d => .slaIyL d
  | .shift .sla .iy none d => .slaIy d
  | .shift .sla .iy (some .a) d => .slaIyA d
  | .shift .sll .iy (some .b) d => .sllIyB d
  | .shift .sll .iy (some .c) d => .sllIyC d
  | .shift .sll .iy (some .d) d => .sllIyD d
  | .shift .sll .iy (some .e) d => .sllIyE d
  | .shift .sll .iy (some .h) d => .sllIyH d
  | .shift .sll .iy (some .l) d => .sllIyL d
  | .shift .sll .iy none d => .sllIy d
  | .shift .sll .iy (some .a) d => .sllIyA d
  | .shift .srl .iy (some .b) d => .srlIyB d
  | .shift .srl .iy (some .c) d => .srlIyC d
  | .shift .srl .iy (some .d) d => .srlIyD d
  | .shift .srl .iy (some .e) d => .srlIyE d
  | .shift .srl .iy (some .h) d => .srlIyH d
  | .shift .srl .iy (some .l) d => .srlIyL d
  | .shift .srl .iy none d => .srlIy d
  | .shift .srl .iy (some .a) d => .srlIyA d
  | .res .iy b (some .b) d => .resIyB b d
  | .res .iy b (some .c) d => .resIyC b d
  | .res .iy b (some .d) d => .resIyD b d
  | .res .iy b (some .e) d => .resIyE b d
  | .res .iy b (some .h) d => .resIyH b d
  | .res .iy b (some .l) d => .resIyL b d
  | .res .iy b none d => .resIy b d
  | .res .iy b (some .a) d => .resIyA b d

/-- The operand form of a table row. -/
def Instr.toShape : Instr → Shape
  | .bitIx b d r => .bit .ix b r d
  | .rlIxB d => .shift .rl .ix (some .b) d
  | .rlIxC d => .shift .rl .ix (some .c) d
  | .rlIxD d => .shift .rl .ix (some .d) d
  | .rlIxE d => .shift .rl .ix (some .e) d
  | .rlIxH d => .shift .rl .ix (some .h) d
  | .rlIxL d => .shift .rl .ix (some .l) d
  | .rlIx d => .shift .rl .ix none d
  | .rlIxA d => .shift .rl .ix (some .a) d
  | .sraIxB d => .shift .sra .ix (some .b) d
  | .sraIxC d => .shift .sra .ix (some .c) d
  | .sraIxD d => .shift .sra .ix (some .d) d
  | .sraIxE d => .shift .sra .ix (some .e) d
  | .sraIxH d => .shift .sra .ix (some .h) d
  | .sraIxL d => .shift .sra .ix (some .l) d
  | .sraIx d => .shift .sra .ix none d
  | .sraIxA d => .shift .sra .ix (some .a) d
  | .setIxB b d => .set .ix b (some .b) d
  | .setIxC b d => .set .ix b (some .c) d
  | .setIxD b d => .set .ix b (some .d) d
  | .setIxE b d => .set .ix b (some .e) d
  | .setIxH b d => .set .ix b (some .h) d
  | .setIxL b d => .set .ix b (some .l) d
  | .setIx b d => .set .ix b none d
  | .setIxA b d => .set .ix b (some .a) d
  | .rlcIxB d => .shift .rlc .ix (some .b) d
  | .rlcIxC d => .shift .rlc .ix (some .c) d
  | .rlcIxD d => .shift .rlc .ix (some .d) d
  | .rlcIxE d => .shift .rlc .ix (some .e) d
  | .rlcIxH d => .shift .rlc .ix (some .h) d
  | .rlcIxL d => .shift .rlc .ix (some .l) d
  | .rlcIx d => .shift .rlc .ix none d
  | .rlcIxA d => .shift .rlc .ix (some .a) d
  | .rrcIxB d => .shift .rrc .ix (some .b) d
  | .rrcIxC d => .shift .rrc .ix (some .c) d
  | .rrcIxD d => .shift .rrc .ix (some .d) d
  | .rrcIxE d => .shift .rrc .ix (some .e) d
  | .rrcIxH d => .shift .rrc .ix (some .h) d
  | .rrcIxL d => .shift .rrc .ix (some .l) d
  | .rrcIx d => .shift .rrc .ix none d
  | .rrcIxA d => .shift .rrc .ix (some .a) d
  | .rrIxB d => .shift .rr .ix (some .b) d
  | .rrIxC d => .shift .rr .ix (some .c) d
  | .rrIxD d => .shift .rr .ix (some .d) d
  | .rrIxE d => .shift .rr .ix (some .e) d
  | .rrIxH d => .shift .rr .ix (some .h) d
  | .rrIxL d => .shift .rr .ix (some .l) d
  | .rrIx d => .shift .rr .ix none d
  | .rrIxA d => .shift .rr .ix (some .a) d
  | .slaIxB d => .shift .sla .ix (some .b) d
  | .slaIxC d => .shift .sla .ix (some .c) d
  | .slaIxD d => .shift .sla .ix (some .d) d
  | .slaIxE d => .shift .sla .ix (some .e) d
  | .slaIxH d => .shift .sla .ix (some .h) d
  | .slaIxL d => .shift .sla .ix (some .l) d
  | .slaIx d => .shift .sla .ix none d
  | .slaIxA d => .shift .sla .ix (some .a) d
  | .sllIxB d => .shift .sll .ix (some .b) d
  | .sllIxC d => .shift .sll .ix (some .c) d
  | .sllIxD d => .shift .sll .ix (some .d) d
  | .sllIxE d => .shift .sll .ix (some .e) d
  | .sllIxH d => .shift .sll .ix (some .h) d
  | .sllIxL d => .shift .sll .ix (some .l) d
  | .sllIx d => .shift .sll .ix none d
  | .sllIxA d => .shift .sll .ix (some .a) d
  | .srlIxB d => .shift .srl .ix (some .b) d
  | .srlIxC d => .shift .srl .ix (some .c) d
  | .srlIxD d => .shift .srl .ix (some .d) d
  | .srlIxE d => .shift .srl .ix (some .e) d
  | .srlIxH d => .shift .srl .ix (some .h) d
  | .srlIxL d => .shift .srl .ix (some .l) d
  | .srlIx d => .shift .srl .ix none d
  | .srlIxA d => .shift .srl .ix (some .a) d
  | .resIxB b d => .res .ix b (some .b) d
  | .resIxC b d => .res .ix b (some .c) d
  | .resIxD b d => .res .ix b (some .d) d
  | .resIxE b d => .res .ix b (some .e) d
  | .resIxH b d => .res .ix b (some .h) d
  | .resIxL b d => .res .ix b (some .l) d
  | .resIx b d => .res .ix b none d
  | .resIxA b d => .res .ix b (some .a) d
  | .bitIy b d r => .bit .iy b r d
  | .rlIyB d => .shift .rl .iy (some .b) d
  | .rlIyC d => .shift .rl .iy (some .c) d
  | .rlIyD d => .shift .rl .iy (some .d) d
  | .rlIyE d => .shift .rl .iy (some .e) d
  | .rlIyH d => .shift .rl .iy (some .h) d
  | .rlIyL d => .shift .rl .iy (some .l) d
  | .rlIy d => .shift .rl .iy none d
  | .rlIyA d => .shift .rl .iy (some .a) d
  | .sraIyB d => .shift .sra .iy (some .b) d
  | .sraIyC d => .shift .sra .iy (some .c) d
  | .sraIyD d => .shift .sra .iy (some .d) d
  | .sraIyE d => .shift .sra .iy (some .e) d
  | .sraIyH d => .shift .sra .iy (some .h) d
  | .sraIyL d => .shift .sra .iy (some .l) d
  | .sraIy d => .shift .sra .iy none d
  | .sraIyA d => .shift .sra .iy (some .a) d
  | .setIyB b d => .set .iy b (some .b) d
  | .setIyC b d => .set .iy b (some .c) d
  | .setIyD b d => .set .iy b (some .d) d
  | .setIyE b d => .set .iy b (some .e) d
  | .setIyH b d => .set .iy b (some .h) d
  | .setIyL b d => .set .iy b (some .l) d
  | .setIy b d => .set .iy b none d
  | .setIyA b d => .set .iy b (some .a) d
  | .rlcIyB d => .shift .rlc .iy (some .b) d
  | .rlcIyC d => .shift .rlc .iy (some .c) d
  | .rlcIyD d => .shift .rlc .iy (some .d) d
  | .rlcIyE d => .shift .rlc .iy (some .e) d
  | .rlcIyH d => .shift .rlc .iy (some .h) d
  | .rlcIyL d => .shift .rlc .iy (some .l) d
  | .rlcIy d => .shift .rlc .iy none d
  | .rlcIyA d => .shift .rlc .iy (some .a) d
  | .rrcIyB d => .shift .rrc .iy (some .b) d
  | .rrcIyC d => .shift .rrc .iy (some .c) d
  | .rrcIyD d => .shift .rrc .iy (some .d) d
  | .rrcIyE d => .shift .rrc .iy (some .e) d
  | .rrcIyH d => .shift .rrc .iy (some .h) d
  | .rrcIyL d => .shift .rrc .iy (some .l) d
  | .rrcIy d => .shift .rrc .iy none d
  | .rrcIyA d => .shift .rrc .iy (some .a) d
  | .rrIyB d => .shift .rr .iy (some .b) d
  | .rrIyC d => .shift .rr .iy (some .c) d
  | .rrIyD d => .shift .rr .iy (some .d) d
  | .rrIyE d => .shift .rr .iy (some .e) d
  | .rrIyH d => .shift .rr .iy (some .h) d
  | .rrIyL d => .shift .rr .iy (some .l) d
  | .rrIy d => .shift .rr .iy none d
  | .rrIyA d => .shift .rr .iy (some .a) d
  | .slaIyB d => .shift .sla .iy (some .b) d
  | .slaIyC d => .shift .sla .iy (some .c) d
  | .slaIyD d => .shift .sla .iy (some .d) d
  | .slaIyE d => .shift .sla .iy (some .e) d
  | .slaIyH d => .shift .sla .iy (some .h) d
  | .slaIyL d => .shift .sla .iy (some .l) d
  | .slaIy d => .shift .sla .iy none d
  | .slaIyA d => .shift .sla .iy (some .a) d
  | .sllIyB d => .shift .sll .iy (some .b) d
  | .sllIyC d => .shift .sll .iy (some .c) d
  | .sllIyD d => .shift .sll .iy (some .d) d
  | .sllIyE d => .shift .sll .iy (some .e) d
  | .sllIyH d => .shift .sll .iy (some .h) d
  | .sllIyL d => .shift .sll .iy (some .l) d
  | .sllIy d => .shift .sll .iy none d
  | .sllIyA d => .shift .sll .iy (some .a) d
  | .srlIyB d => .shift .srl .iy (some .b) d
  | .srlIyC d => .shift .srl .iy (some .c) d
  | .srlIyD d => .shift .srl .iy (some .d) d
  | .srlIyE d => .shift .srl .iy (some .e) d
  | .srlIyH d => .shift .srl .iy (some .h) d
  | .srlIyL d => .shift .srl .iy (some .l) d
  | .srlIy d => .shift .srl .iy none d
  | .srlIyA d => .shift .srl .iy (some .a) d
  | .resIyB b d => .res .iy b (some .b) d
  | .resIyC b d => .res .iy b (some .c) d
  | .resIyD b d => .res .iy b (some .d) d
  | .resIyE b d => .res .iy b (some .e) d
  | .resIyH b d => .res .iy b (some .h) d
  | .resIyL b d => .res .iy b (some .l) d
  | .resIy b d => .res .iy b none d
  | .resIyA b d => .res .iy b (some .a) d

/-- The index register of an operand form. -/
def Shape.index : Shape → Index
  | .shift _ x _ _ => x
  | .bit x _ _ _ => x
  | .res x _ _ _ => x
  | .set x _ _ _ => x

/-- The displacement byte of an operand form. -/
def Shape.disp : Shape → Byte
  | .shift _ _ _ d => d
  | .bit _ _ _ d => d
  | .res _ _ _ d => d
  | .set _ _ _ d => d

/-! ### The dispatch tables -/

/-- The fields `cls`, `y`, `r` of an opcode byte (R66), read as an operand form (R67). -/
def shapeOfOpcode (x : Index) (d op : Byte) : Shape :=
  let y := op.extractLsb' 3 3
  let r := op.extractLsb' 0 3
  match (op.extractLsb' 6 2).toNat with
  | 0 => .shift (ShiftKind.ofY y) x (reg8 r) d
  | 1 => .bit x y r d
  | 2 => .res x y (reg8 r) d
  | _ => .set x y (reg8 r) d

/-- What EXECUTE is given (R62): an opcode byte of one of the tables none, CB, ED, DD, FD, or an opcode byte of the table
DD-CB or FD-CB with the displacement fetched before it. -/
inductive Selected where
  | direct (c : Context) (op : Byte)
  | indexedBit (x : Index) (d op : Byte)
  deriving DecidableEq, Repr

/-- The context whose table is consulted. -/
def Selected.context : Selected → Context
  | .direct c _ => c
  | .indexedBit x _ _ => x.bitContext

/-- The opcode byte looked up. -/
def Selected.op : Selected → Byte
  | .direct _ op => op
  | .indexedBit _ _ op => op

/-- The dispatch tables (R60, R67, R70, R71): a handler contract exists in tables DD-CB and FD-CB only, and for the rows
of 44_gk_indexed_bit_remainder.md only if `ADMIT_GK_EXT`. `none` is `Unspecified`. -/
def lookup (admitGk : Bool) : Selected → Option Instr
  | .direct _ _ => none
  | .indexedBit x d op =>
    if (Instr.ofShape (shapeOfOpcode x d op)).wf admitGk then some (Instr.ofShape (shapeOfOpcode x d op)) else none

/-! ### The dispatch state machine -/

/-- A source of instruction bytes: how the next byte is fetched, and how ENTER_DD and ENTER_FD mark it. -/
structure ByteSource (σ ε : Type) where
  next : σ → Except ε (Byte × σ)
  mark : Index → σ → σ

/-- ENTER_CB and ENTER_ED (R62): one opcode byte of that table. -/
def enterTable {σ ε : Type} (src : ByteSource σ ε) (c : Context) (s : σ) : Except ε (Selected × σ) :=
  match src.next s with
  | .error e => .error e
  | .ok (op, s') => .ok (.direct c op, s')

/-- ENTER_CB_INDEXED and FETCH_DISPLACEMENT (R62): the displacement, then the opcode byte (D5). -/
def fetchDisplacement {σ ε : Type} (src : ByteSource σ ε) (x : Index) (s : σ) : Except ε (Selected × σ) :=
  match src.next s with
  | .error e => .error e
  | .ok (d, s') =>
    match src.next s' with
    | .error e => .error e
    | .ok (op, s'') => .ok (.indexedBit x d op, s'')

/-- ENTER_DD and ENTER_FD (R62, R63): set the marker, fetch one byte; 0xCB leads on, any other byte, a second prefix byte
among them, is an opcode of table DD or FD (D24). -/
def enterIndex {σ ε : Type} (src : ByteSource σ ε) (x : Index) (s : σ) : Except ε (Selected × σ) :=
  match src.next (src.mark x s) with
  | .error e => .error e
  | .ok (b1, s') => if b1 = cbByte then fetchDisplacement src x s' else .ok (.direct x.context b1, s')

/-- FETCH_OPCODE (R62): from an instruction boundary to what EXECUTE is given. -/
def select {σ ε : Type} (src : ByteSource σ ε) (s : σ) : Except ε (Selected × σ) :=
  match src.next s with
  | .error e => .error e
  | .ok (b0, s') =>
    if b0 = cbByte then enterTable src .cb s'
    else if b0 = edByte then enterTable src .ed s'
    else if b0 = Index.byte .ix then enterIndex src .ix s'
    else if b0 = Index.byte .iy then enterIndex src .iy s'
    else .ok (.direct .none b0, s')

/-! ### The decoder on a list of bytes -/

/-- A list of bytes as a source; it fails when it is at its end. -/
def listSource : ByteSource (List Byte) Unit :=
  { next := fun bytes =>
      match bytes with
      | [] => .error ()
      | b :: rest => .ok (b, rest)
    mark := fun _ bytes => bytes }

/-- What the decoder reads: an instruction and the bytes after it; a pair without a contract, by name (R70); or too few
bytes for an instruction. -/
inductive Decoded where
  | instr (i : Instr) (rest : List Byte)
  | unspecified (c : Context) (op : Byte) (rest : List Byte)
  | truncated
  deriving DecidableEq, Repr

/-- The decoder under a value of `ADMIT_GK_EXT`. -/
def decodeWith (admitGk : Bool) (bytes : List Byte) : Decoded :=
  match select listSource bytes with
  | .error _ => .truncated
  | .ok (sel, rest) =>
    match lookup admitGk sel with
    | none => .unspecified sel.context sel.op rest
    | some i => .instr i rest

/-- The decoder of the machine behind `step`. -/
def decode (bytes : List Byte) : Decoded := decodeWith Config.admitGkExt bytes

/-! ### The encoder -/

/-- The opcode byte `cls ++ y ++ r` of an operand form (R66, R67). -/
def Shape.opcode : Shape → Byte
  | .shift k _ save _ => 0#2 ++ k.y ++ saveBits save
  | .bit _ b r _ => 1#2 ++ b ++ r
  | .res _ b save _ => 2#2 ++ b ++ saveBits save
  | .set _ b save _ => 3#2 ++ b ++ saveBits save

/-- The four bytes of an instruction, at ascending addresses (R65). -/
def encode (i : Instr) : List Byte := [i.toShape.index.byte, cbByte, i.toShape.disp, i.toShape.opcode]

/-! ### The opcode table's numbering -/

/-- The four bytes of a table word. The table numbers an instruction as ONE word with byte 0 in the most significant
bits (R65, log 14); bytes that a shorter word does not give are 0. -/
def tableBytes (nbits w : Nat) : List Byte :=
  (List.range 4).map (fun k => if 8 * (k + 1) ≤ nbits then BitVec.ofNat 8 (w >>> (nbits - 8 * (k + 1))) else 0#8)

/-- The instruction the decoder reads from a table word. -/
def decodeTableWord (nbits w : Nat) : Option Instr :=
  match decode (tableBytes nbits w) with
  | .instr i _ => some i
  | .unspecified _ _ _ => none
  | .truncated => none

end Sys2Proof
end

