-- ==== Sys2Proof/Machine/State.lean ====
section
/-! DEFINITION. The state of CORE as plain data: the Register File and the running cycle counter, and the Bus they are
attached to in `State`; the faults and refusals of a step; the state right after reset. -/

namespace Sys2Proof.Machine

/-- One bank: the general registers A to L (R10) and the flags register F (R16, R18). The Register File holds two,
the active bank and its shadow copy (R11). -/
structure Bank where
  a : Byte
  b : Byte
  c : Byte
  d : Byte
  e : Byte
  h : Byte
  l : Byte
  f : Byte
  deriving DecidableEq, Repr

/-- The "interrupt state" of the Register File (R22): an opaque value that no instruction reads or writes.
DESIGN CHOICE (log 2): an uninterpreted token, over which every claim quantifies. -/
structure IntState where
  token : Nat
  deriving DecidableEq, Repr

/-- Whatever a failing Bus surfaces, kept unchanged (R173): an uninterpreted number (log 9). -/
abbrev BusError := Nat

/-- The flat RAM of R41: the written bytes, addresses strictly rising, none equal to `Config.unlistedByte`. -/
abbrev Memory := List Host.Cell

/-- What a Bus address that is no memory answers to one call: a byte, or a failure (R42, R172). A write takes
`value` as an acknowledgement. -/
inductive Reply where
  | value (v : Byte)
  | failure (e : BusError)
  deriving DecidableEq, Repr

/-- What backs an address that is not plain RAM ("ROM, banked RAM, or memory-mapped peripherals", R40, R41).
`rom` reads as memory and ignores writes. `device` answers its calls with `script` in order, then with `idle` for
ever: the answers of any Bus along any finite run are such a script (log 7). -/
inductive Backing where
  | rom
  | device (script : List Reply) (idle : Reply)
  deriving DecidableEq, Repr

/-- One completed call of the Bus, with its data: the event history that R46 asks a model to keep. -/
inductive BusCall where
  | read (a : Word) (v : Byte)
  | write (a : Word) (v : Byte)
  deriving DecidableEq, Repr

/-- The Bus of `State`: RAM, the addresses backed by something else, and the calls made so far, oldest first. It is ONE
instance of the Bus parameter of R41, `Bus.interface`; `stepOn` takes any other (log 7). -/
structure Bus where
  mem : Memory
  special : List (Nat × Backing)
  calls : List BusCall
  deriving DecidableEq, Repr

/-- The state of CORE itself: the Register File of 10_state.md and `cyc` (R23). The Bus is no part of it (R41). -/
structure CoreState where
  regs : Bank
  shadow : Bank
  ix : Word
  iy : Word
  sp : Word
  pc : Word
  pfx : Prefix
  intState : IntState
  cyc : Nat
  deriving DecidableEq, Repr

/-- The whole state of the machine behind `step`: CORE attached to a Bus. -/
structure State extends CoreState where
  bus : Bus
  deriving DecidableEq, Repr

/-- The one fault of this hardware. -/
inductive Fault where
  /-- A Bus call failed (R172, R173). Raised by the instruction fetch and by every meaning at its own Bus calls; it
  carries what the Bus surfaced. Safe: the spec defines no state after it (D16). -/
  | busFailure (surfaced : BusError)
  deriving DecidableEq, Repr

/-- Why a step has no meaning. -/
inductive Refusal where
  /-- Reserved for an arm of `exec` without a meaning; raised by none. Safe. -/
  | notModelled (mnemonic : String)
  /-- `Unspecified(ctx, op)` (R70): the dispatch reached a pair for which the spec has no handler contract. Raised by
  `step` only. Safe: the model declines to give a behaviour. -/
  | unspecified (ctx : Context) (op : Byte)
  deriving DecidableEq, Repr

/-- `INIT` (R4, R28, D13): the contents the Register File is created with, but for the marker and the counter. -/
structure Init where
  regs : Bank
  shadow : Bank
  ix : Word
  iy : Word
  sp : Word
  pc : Word
  intState : IntState
  deriving DecidableEq, Repr

/-- Creation of the Register File, which is this hardware's reset (R190): every field from `INIT`, `pfx = None`,
`cyc = 0`, attached to a given Bus. -/
def State.create (init : Init) (bus : Bus) : State :=
  { regs := init.regs, shadow := init.shadow, ix := init.ix, iy := init.iy, sp := init.sp, pc := init.pc
    pfx := .none, intState := init.intState, cyc := 0, bus := bus }

/-- A bank whose eight registers hold `Config.initByte`. -/
def Bank.initial : Bank :=
  { a := Config.initByte, b := Config.initByte, c := Config.initByte, d := Config.initByte
    e := Config.initByte, h := Config.initByte, l := Config.initByte, f := Config.initByte }

/-- The one `INIT` that `State.reset` takes. DESIGN CHOICE (log 1): all zero; the spec gives no value. -/
def Init.chosen : Init :=
  { regs := .initial, shadow := .initial, ix := Config.initWord, iy := Config.initWord, sp := Config.initWord
    pc := Config.initWord, intState := { token := 0 } }

/-- The flat RAM Bus of R41 with nothing written and nothing called yet. -/
def Bus.flatRam : Bus := { mem := [], special := [], calls := [] }

/-- The machine right after reset (R28, R190). -/
def State.reset : State := State.create .chosen .flatRam

end Sys2Proof.Machine
end

