-- ==== Sys2Proof/Machine/Ops.lean ====
section
/-! DEFINITION. The named operations over memory, the Bus, the registers and the step's outcome. Every meaning reads and
writes the state through these. There is no exception entry and no exception return here: the core has neither
(R170, R176, R177); its one abnormal outcome is `busFailed`. -/

namespace Sys2Proof.Machine

/-! ### RAM -/

/-- The byte the RAM holds at an address; an unlisted address reads as `Config.unlistedByte`. -/
def Memory.read : Memory → Nat → Byte
  | [], _ => Config.unlistedByte
  | (k, v) :: m, a => if a = k then v else Memory.read m a

/-- Memory without its entries for an address. -/
def Memory.erase (m : Memory) (a : Nat) : Memory := m.filter (fun cell => decide (cell.1 ≠ a))

/-- Adds an entry in address order. -/
def Memory.insert : Memory → Nat → Byte → Memory
  | [], a, v => [(a, v)]
  | (k, w) :: m, a, v => if a < k then (a, v) :: (k, w) :: m else (k, w) :: Memory.insert m a v

/-- Stores a byte, keeping the canonical form: a byte equal to what an unlisted address reads as is not listed. -/
def Memory.write (m : Memory) (a : Nat) (v : Byte) : Memory :=
  if v = Config.unlistedByte then m.erase a else (m.erase a).insert a v

/-- The canonical form from a lower bound on: addresses strictly rising, inside the address space (R40), no entry
equal to what an unlisted address reads as. -/
def Memory.wfFrom : Nat → Memory → Bool
  | _, [] => true
  | lo, (k, v) :: m =>
    decide (lo ≤ k) && decide (k < 0x10000) && decide (v ≠ Config.unlistedByte) && Memory.wfFrom (k + 1) m

/-- The canonical form of memory. -/
def Memory.wf (m : Memory) : Bool := Memory.wfFrom 0 m

/-! ### The Bus -/

/-- What backs an address that is not plain RAM. -/
def backingAt : List (Nat × Backing) → Nat → Option Backing
  | [], _ => none
  | (k, b) :: l, a => if a = k then some b else backingAt l a

/-- Replaces what backs an address that is already listed. -/
def setBacking (l : List (Nat × Backing)) (a : Nat) (b : Backing) : List (Nat × Backing) :=
  l.map (fun e => if e.1 = a then (e.1, b) else e)

/-- The list of special addresses is strictly rising and inside the address space. -/
def specialWfFrom : Nat → List (Nat × Backing) → Bool
  | _, [] => true
  | lo, (k, _) :: l => decide (lo ≤ k) && decide (k < 0x10000) && specialWfFrom (k + 1) l

/-- The reply of a device to its next call, and what it will answer from then on. -/
def nextReply : List Reply → Reply → Reply × List Reply
  | [], idle => (idle, [])
  | r :: script, _ => (r, script)

namespace Bus

/-- What backs an address; `none` is plain RAM. -/
def backing (b : Bus) (a : Word) : Option Backing := backingAt b.special a.toNat

/-- The byte the RAM (or ROM) behind the Bus holds at an address, read without a Bus call. -/
def peek (b : Bus) (a : Word) : Byte := b.mem.read a.toNat

/-- The Bus is in canonical form. -/
def wf (b : Bus) : Bool := b.mem.wf && specialWfFrom 0 b.special

/-- Appends one completed call to the event history (R46). -/
def log (b : Bus) (call : BusCall) : Bus := { b with calls := b.calls ++ [call] }

/-- `readByte` (R41): one call, which RAM and ROM answer with the byte they hold and a device as it likes. -/
def read (b : Bus) (a : Word) : Except BusError (Byte × Bus) :=
  match b.backing a with
  | none | some .rom => .ok (b.peek a, b.log (.read a (b.peek a)))
  | some (.device script idle) =>
    match nextReply script idle with
    | (.failure e, _) => .error e
    | (.value v, rest) =>
      .ok (v, { b with special := setBacking b.special a.toNat (.device rest idle) }.log (.read a v))

/-- `writeByte` (R41): one call; RAM stores the byte, ROM ignores it (R46), a device takes it. -/
def write (b : Bus) (a : Word) (v : Byte) : Except BusError Bus :=
  match b.backing a with
  | none => .ok ({ b with mem := b.mem.write a.toNat v }.log (.write a v))
  | some .rom => .ok (b.log (.write a v))
  | some (.device script idle) =>
    match nextReply script idle with
    | (.failure e, _) => .error e
    | (.value _, rest) =>
      .ok ({ b with special := setBacking b.special a.toNat (.device rest idle) }.log (.write a v))

/-- Makes an address plain RAM holding a byte, without a Bus call: the host's file loader (R192, log 13). -/
def load (b : Bus) (a : Word) (v : Byte) : Bus :=
  { b with mem := b.mem.write a.toNat v, special := b.special.filter (fun e => decide (e.1 ≠ a.toNat)) }

end Bus

/-! ### The Bus as a parameter -/

/-- The Bus of R41 (D17): the two primitives over a type of Bus states. RAM, banked or mirrored RAM, and devices that
react to what is written or to calls elsewhere are all instances. -/
structure BusInterface (BusState : Type) where
  read : BusState → Word → Except BusError (Byte × BusState)
  write : BusState → Word → Byte → Except BusError BusState

/-- The Bus of `State` as an instance. -/
def Bus.interface : BusInterface Bus := { read := Bus.read, write := Bus.write }

/-- The flat RAM of R41, as that rule writes it: it never fails. -/
def BusInterface.flatRam : BusInterface (Word → Byte) :=
  { read := fun m a => .ok (m a, m)
    write := fun m a v => .ok (fun c => if c = a then v else m c) }

/-- A computation of CORE by the Bus calls it makes (R41, R42): `MemRead(addr, 1)` goes on with the byte answered,
`MemWrite(addr, 1, v)` goes on when it is taken. Nothing of CORE reaches the Bus but these calls. -/
inductive Access (α : Type) where
  | done (x : α)
  | read (a : Word) (k : Byte → Access α)
  | write (a : Word) (v : Byte) (k : Access α)

/-- A computation run against a Bus: its calls in order; the first one that fails ends it (R173). -/
def Access.run {BusState α : Type} (B : BusInterface BusState) : Access α → BusState → Except BusError (α × BusState)
  | .done x, b => .ok (x, b)
  | .read a k, b =>
    match B.read b a with
    | .error e => .error e
    | .ok (v, b1) => Access.run B (k v) b1
  | .write a v k, b =>
    match B.write b a v with
    | .error e => .error e
    | .ok b1 => Access.run B k b1

/-- `fetch()` (R15, R62): reads the byte at pc and advances pc by one, modulo 0x10000. -/
def fetchByte {BusState : Type} (B : BusInterface BusState) (p : CoreState × BusState) :
    Except BusError (Byte × (CoreState × BusState)) :=
  match B.read p.2 p.1.pc with
  | .error e => .error e
  | .ok (v, b) => .ok (v, ({ p.1 with pc := p.1.pc + 1#16 }, b))

namespace State

/-- The two parts of a state: CORE and the Bus it is attached to. -/
def split (s : State) : CoreState × Bus := (s.toCoreState, s.bus)

/-- CORE attached to a Bus. -/
def join (p : CoreState × Bus) : State := { toCoreState := p.1, bus := p.2 }

end State

/-! ### Registers -/

/-- Read of a general register of a bank (R10, R24). -/
def Bank.get (k : Bank) : Reg8 → Byte
  | .a => k.a
  | .b => k.b
  | .c => k.c
  | .d => k.d
  | .e => k.e
  | .h => k.h
  | .l => k.l

/-- Write of a general register of a bank (R10, R24). -/
def Bank.set (k : Bank) (r : Reg8) (v : Byte) : Bank :=
  match r with
  | .a => { k with a := v }
  | .b => { k with b := v }
  | .c => { k with c := v }
  | .d => { k with d := v }
  | .e => { k with e := v }
  | .h => { k with h := v }
  | .l => { k with l := v }

namespace CoreState

/-- `x[r]` (R7). -/
def reg (s : CoreState) (r : Reg8) : Byte := s.regs.get r

/-- `x[r] <- v` (R7). -/
def setReg (s : CoreState) (r : Reg8) (v : Byte) : CoreState := { s with regs := s.regs.set r v }

/-- The flags register as a whole byte (R24). -/
def flags (s : CoreState) : Byte := s.regs.f

/-- `setFlags(byteValue)` replaces the full flags byte (R7, R18). -/
def setFlags (s : CoreState) (v : Byte) : CoreState := { s with regs := { s.regs with f := v } }

/-- An index register (R12). -/
def index (s : CoreState) : Index → Word
  | .ix => s.ix
  | .iy => s.iy

/-- `save(r, v)` (R104): copies the computed result into the register the save sub-field names, if it names one. -/
def save (s : CoreState) (r : Option Reg8) (v : Byte) : CoreState :=
  match r with
  | none => s
  | some q => s.setReg q v

/-! ### The active-prefix marker and the end of an instruction -/

/-- ENTER_DD and ENTER_FD set the marker (R21, R62, R63). -/
def enter (s : CoreState) (x : Index) : CoreState := { s with pfx := x.marker }

/-- The end of EXECUTE (R62, R199): the cost is added to `cyc` and the marker is cleared. -/
def complete (s : CoreState) (cost : Nat) : CoreState := { s with cyc := s.cyc + cost, pfx := .none }

end CoreState

/-! ### The outcome of an instruction -/

/-- A handler (R105): on the state of CORE with the marker set, the Bus calls it makes, and its cost and the state it
leaves once they are answered. -/
abbrev Handler := CoreState → Access (Nat × CoreState)

/-- A failure of the Bus, surfaced unchanged to the host (R173). -/
def busFailed {σ : Type} (e : BusError) : Host.Outcome σ Fault Refusal := .fault (.busFailure e)

/-- An outcome with its next state, if it is one, put into another form. -/
def mapNext {σ τ : Type} (f : σ → τ) : Host.Outcome σ Fault Refusal → Host.Outcome τ Fault Refusal
  | .next s => .next (f s)
  | .fault e => .fault e
  | .refused r => .refused r

/-- EXECUTE of an indexed instruction on any Bus (R41, R62, R110): the handler runs with the marker that ENTER_DD or
ENTER_FD sets for this instruction; then its cost is added and the marker cleared. In a run the fetch has set the
marker already; setting it again here makes the meaning of an instruction independent of who calls it (log 19). -/
def runHandlerOn {BusState : Type} (B : BusInterface BusState) (x : Index) (h : Handler) (p : CoreState × BusState) :
    Host.Outcome (CoreState × BusState) Fault Refusal :=
  match (h (p.1.enter x)).run B p.2 with
  | .error e => busFailed e
  | .ok ((cost, c), b) => .next (c.complete cost, b)

/-- EXECUTE on the Bus of `State`. -/
def runHandler (x : Index) (h : Handler) (s : State) : Host.Outcome State Fault Refusal :=
  mapNext State.join (runHandlerOn Bus.interface x h s.split)

end Sys2Proof.Machine
end

