-- ==== Sys2Proof/Machine/Flags.lean ====
section
/-! DEFINITION. The Flag Computation Library (40_flag_library_and_addressing.md section 1): pure functions, each giving
a contribution already positioned in the flags byte, and the named bits of F. The library has no overflow, half-carry
or add-subtract function: the spec gives no formula for them (R92, 91_not_in_source.md). -/

namespace Sys2Proof.Machine

/-- A contribution: the flag's mask when the condition holds, else 0. -/
def contribution (fl : Flag) (cond : Bool) : Byte := if cond then Config.flagMask fl else 0#8

/-- Whether a named bit of a flags byte is 1 (R7, R24). -/
def flagOf (f : Byte) (fl : Flag) : Bool := decide (f &&& Config.flagMask fl ≠ 0#8)

/-- A flags byte with one named bit replaced (R24). -/
def withFlag (f : Byte) (fl : Flag) (v : Bool) : Byte := (f &&& ~~~(Config.flagMask fl)) ||| contribution fl v

/-- A named bit of F (R7, R24). -/
def CoreState.flag (s : CoreState) (fl : Flag) : Bool := flagOf s.flags fl

/-- Writes one named bit of F, keeping the other seven (R24). No instruction uses it: handlers write F whole (R18). -/
def CoreState.setFlag (s : CoreState) (fl : Flag) (v : Bool) : CoreState := s.setFlags (withFlag s.flags fl v)

/-- `signCheck` (R90): bit 7 of the result, at the sign position. -/
def signCheck (v : Byte) : Byte := contribution .s (v.getLsbD 7)

/-- `zeroCheck` (R91): set when the result equals zero. -/
def zeroCheck (v : Byte) : Byte := contribution .z (decide (v = 0#8))

/-- The number of 1-bits of a byte (R92). -/
def popcount (v : Byte) : Nat :=
  (v.getLsbD 0).toNat + (v.getLsbD 1).toNat + (v.getLsbD 2).toNat + (v.getLsbD 3).toNat +
  (v.getLsbD 4).toNat + (v.getLsbD 5).toNat + (v.getLsbD 6).toNat + (v.getLsbD 7).toNat

/-- `parity` (R92): set when the number of 1-bits is even. -/
def parity (v : Byte) : Byte := contribution .pv (decide (popcount v % 2 = 0))

/-- `x5Check` (R93): bit 5 of the result. -/
def x5Check (v : Byte) : Byte := v &&& Config.flagMask .x5

/-- `x3Check` (R93): bit 3 of the result. -/
def x3Check (v : Byte) : Byte := v &&& Config.flagMask .x3

/-- `x5Check16` (R94): bit 13 of an address. -/
def x5Check16 (a : Word) : Byte := contribution .x5 (a.getLsbD 13)

/-- `x3Check16` (R94): bit 11 of an address. -/
def x3Check16 (a : Word) : Byte := contribution .x3 (a.getLsbD 11)

/-- `unaffect(mask)` (R95): the current value of the selected bits of F. -/
def unaffect (f mask : Byte) : Byte := f &&& mask

/-- The carry contribution (R96). -/
def carry (c : Bool) : Byte := contribution .c c

/-- `szp53` (R101): sign, zero, parity, X5 and X3 of a result. -/
def szp53 (v : Byte) : Byte := signCheck v ||| zeroCheck v ||| parity v ||| x5Check v ||| x3Check v

/-- The flags byte of the rotates and shifts (R120, R140): `szp53` of the result and the new carry; H = N = 0 by the
assembly rule R100. -/
def shiftFlags (res : Byte) (cout : Bool) : Byte := szp53 res ||| carry cout

/-- The flags byte of BIT (R112): S, Z, P/V from the masked test result, H forced to 1, X5 and X3 from the effective
address, C as it was; N = 0 by the assembly rule R100 (log 17). -/
def bitFlags (t : Byte) (ea : Word) (f : Byte) : Byte :=
  signCheck t ||| zeroCheck t ||| parity t ||| Config.flagMask .h ||| x5Check16 ea ||| x3Check16 ea |||
    unaffect f (Config.flagMask .c)

end Sys2Proof.Machine
end

