-- ==== Sys2Proof/Machine/Operands.lean ====
section
/-! DEFINITION. The Addressing Resolver (40_flag_library_and_addressing.md section 2): its two modes, and the index
register that the active-prefix marker selects. -/

namespace Sys2Proof.Machine

/-- `resolveIndexed(base, d)` (R102): the base plus the sign-extended displacement, modulo 0x10000. -/
def resolveIndexed (base : Word) (d : Byte) : Word := base + d.signExtend 16

/-- The 16-bit value of a register pair, first letter the high byte (R20). PRESUMED (log 20); used by no
instruction. -/
def CoreState.pair (s : CoreState) : Pair → Word
  | .bc => s.regs.b ++ s.regs.c
  | .de => s.regs.d ++ s.regs.e
  | .hl => s.regs.h ++ s.regs.l

/-- Register-pair indirect addressing (R103): a direct pass-through of the pair's value. -/
def resolvePair (s : CoreState) (p : Pair) : Word := s.pair p

/-- `XY` (R7, R75): the index register the marker selects. It is read between ENTER_DD or ENTER_FD and the end of
EXECUTE only, where the marker is not None; the value given for None is never used (log 19). -/
def CoreState.xy (s : CoreState) : Word :=
  match s.pfx with
  | .indexX => s.ix
  | .indexY => s.iy
  | .none => s.ix

/-- The effective address `ea` of an indexed instruction (R102). -/
def CoreState.ea (s : CoreState) (d : Byte) : Word := resolveIndexed s.xy d

end Sys2Proof.Machine
end

