-- ==== Sys2Proof/Machine/Indexed.lean ====
section
/-! DEFINITION. The shared handler bodies of the indexed-bit-operations (40_flag_library_and_addressing.md section 3):
one that reads, one that reads, modifies and writes back, and the bit and shift functions they are used with. -/

namespace Sys2Proof.Machine

/-- What a read-modify-write handler computes: the byte stored and copied, and the new flags byte if it writes one. -/
structure Computed where
  res : Byte
  flags : Option Byte
  deriving DecidableEq, Repr

/-- Writes the flags byte a handler assembled, if it assembled one (R100). -/
def CoreState.writeFlags (s : CoreState) : Option Byte → CoreState
  | none => s
  | some f => s.setFlags f

/-- The read-modify-write handler (R50 items 5 and 6, R104, R120): one read of `ea`, one write of `ea`, made even when
the byte does not change, the copy of the computed result, the flags. `op` takes the byte read and the F of the
handler's start. -/
def rmwInd (cost : Nat) (r : Option Reg8) (d : Byte) (op : Byte → Byte → Computed) : Handler := fun s =>
  .read (s.ea d) (fun v => .write (s.ea d) (op v s.flags).res
    (.done (cost, (s.save r (op v s.flags).res).writeFlags (op v s.flags).flags)))

/-- The one-bit mask `1 << b`. -/
def bitMask (b : BitVec 3) : Byte := 1#8 <<< b.toNat

/-- The body of a rotate or shift (R120, R140): `f` gives the result and the new carry from the byte read and the old
carry; all eight flags are written. -/
def shiftInd (cost : Nat) (f : Byte → Bool → Byte × Bool) (r : Option Reg8) (d : Byte) : Handler :=
  rmwInd cost r d (fun v flags =>
    { res := (f v (flagOf flags .c)).1
      flags := some (shiftFlags (f v (flagOf flags .c)).1 (f v (flagOf flags .c)).2) })

/-- The body of SET and RES (R132, R147): F is not read and not written. -/
def modifyInd (cost : Nat) (f : Byte → Byte) (r : Option Reg8) (d : Byte) : Handler :=
  rmwInd cost r d (fun v _ => { res := f v, flags := none })

/-- The body of BIT (R112): one read of `ea`, F written whole, no register and no memory written. -/
def bitInd (b : BitVec 3) (d : Byte) : Handler := fun s =>
  .read (s.ea d) (fun v => .done (Config.costBit, s.setFlags (bitFlags (v &&& bitMask b) (s.ea d) s.flags)))

/-- RL (R122): the old carry enters at bit 0, old bit 7 is the new carry. -/
def rlFn (v : Byte) (cin : Bool) : Byte × Bool := ((v <<< 1) ||| (if cin then 1#8 else 0#8), v.getLsbD 7)

/-- SRA (R124): bit 7 is kept, old bit 0 is the new carry. -/
def sraFn (v : Byte) (_cin : Bool) : Byte × Bool := ((v >>> 1) ||| (v &&& 0x80#8), v.getLsbD 0)

/-- RLC (R141): old bit 7 enters at bit 0 and is the new carry. PRESUMED (log 3). -/
def rlcFn (v : Byte) (_cin : Bool) : Byte × Bool := ((v <<< 1) ||| (v >>> 7), v.getLsbD 7)

/-- RRC (R142): old bit 0 enters at bit 7 and is the new carry. PRESUMED (log 3). -/
def rrcFn (v : Byte) (_cin : Bool) : Byte × Bool := ((v >>> 1) ||| (v <<< 7), v.getLsbD 0)

/-- RR (R143): the old carry enters at bit 7, old bit 0 is the new carry. PRESUMED (log 3). -/
def rrFn (v : Byte) (cin : Bool) : Byte × Bool := ((v >>> 1) ||| (if cin then 0x80#8 else 0#8), v.getLsbD 0)

/-- SLA (R144): 0 enters at bit 0, old bit 7 is the new carry. PRESUMED (log 3). -/
def slaFn (v : Byte) (_cin : Bool) : Byte × Bool := (v <<< 1, v.getLsbD 7)

/-- SLL (R145): 1 enters at bit 0, old bit 7 is the new carry. PRESUMED (log 3). -/
def sllFn (v : Byte) (_cin : Bool) : Byte × Bool := ((v <<< 1) ||| 1#8, v.getLsbD 7)

/-- SRL (R146): 0 enters at bit 7, old bit 0 is the new carry. PRESUMED (log 3). -/
def srlFn (v : Byte) (_cin : Bool) : Byte × Bool := (v >>> 1, v.getLsbD 0)

/-- SET (R132): bit b becomes 1. -/
def setFn (b : BitVec 3) (v : Byte) : Byte := v ||| bitMask b

/-- RES (R147): bit b becomes 0. PRESUMED (log 3). -/
def resFn (b : BitVec 3) (v : Byte) : Byte := v &&& ~~~(bitMask b)

end Sys2Proof.Machine
end

