-- ==== Sys2Proof/Machine/AnyBus.lean ====
section
/-! DEFINITION. The instructions on the Bus given as a parameter (R41, D17): the handler of every operand form, and one
instruction run against any Bus. `exec` is its instance on the Bus of `State`: Laws/Exec.lean proves it. -/

namespace Sys2Proof.Machine

/-- The handler of an operand form (R112, R120, R132, R140, R147). -/
def handlerOf : Shape → Handler
  | .shift .rlc _ save d => shiftInd Config.costGk rlcFn save d
  | .shift .rrc _ save d => shiftInd Config.costGk rrcFn save d
  | .shift .rl _ save d => shiftInd Config.costRl rlFn save d
  | .shift .rr _ save d => shiftInd Config.costGk rrFn save d
  | .shift .sla _ save d => shiftInd Config.costGk slaFn save d
  | .shift .sra _ save d => shiftInd Config.costSra sraFn save d
  | .shift .sll _ save d => shiftInd Config.costGk sllFn save d
  | .shift .srl _ save d => shiftInd Config.costGk srlFn save d
  | .bit _ b _ d => bitInd b d
  | .res _ b save d => modifyInd Config.costGk (resFn b) save d
  | .set _ b save d => modifyInd Config.costSet (setFn b) save d

/-- One instruction on any Bus. -/
def execOn {BusState : Type} (B : BusInterface BusState) (i : Instr) (p : CoreState × BusState) :
    Host.Outcome (CoreState × BusState) Fault Refusal :=
  runHandlerOn B i.toShape.index (handlerOf i.toShape) p

end Sys2Proof.Machine
end

