-- ==== Sys2Proof/Machine/BitTest.lean ====
section
/-! DEFINITION. The meanings of BIT b,(XY+d) (41_bit_test_indexed.md): one definition per row of
the opcode table, over the shared handlers of Machine/Indexed.lean. -/

namespace Sys2Proof.Machine

/-- `BIT b,(IX+d)` (R112, R113); all eight r are this instruction and none copies (log 17). -/
def execBitIx (b : BitVec 3) (d : Byte) (_r : BitVec 3) (s : State) : Host.Outcome State Fault Refusal :=
  runHandler .ix (bitInd b d) s

/-- `BIT b,(IY+d)` (R112, R113); all eight r are this instruction and none copies (log 17). -/
def execBitIy (b : BitVec 3) (d : Byte) (_r : BitVec 3) (s : State) : Host.Outcome State Fault Refusal :=
  runHandler .iy (bitInd b d) s

end Sys2Proof.Machine
end

