-- ==== Sys2Proof/Machine/GkResetBit.lean ====
section
/-! DEFINITION. The meanings of RES b,(XY+d) with optional register copy (44_gk_indexed_bit_remainder.md, general knowledge: PRESUMED,
log 3): one definition per row of
the opcode table, over the shared handlers of Machine/Indexed.lean. -/

namespace Sys2Proof.Machine

/-- `RES b,(IX+d),B` (R147, R148). -/
def execResIxB (b : BitVec 3) (d : Byte) (s : State) : Host.Outcome State Fault Refusal :=
  runHandler .ix (modifyInd Config.costGk (resFn b) (some .b) d) s

/-- `RES b,(IX+d),C` (R147, R148). -/
def execResIxC (b : BitVec 3) (d : Byte) (s : State) : Host.Outcome State Fault Refusal :=
  runHandler .ix (modifyInd Config.costGk (resFn b) (some .c) d) s

/-- `RES b,(IX+d),D` (R147, R148). -/
def execResIxD (b : BitVec 3) (d : Byte) (s : State) : Host.Outcome State Fault Refusal :=
  runHandler .ix (modifyInd Config.costGk (resFn b) (some .d) d) s

/-- `RES b,(IX+d),E` (R147, R148). -/
def execResIxE (b : BitVec 3) (d : Byte) (s : State) : Host.Outcome State Fault Refusal :=
  runHandler .ix (modifyInd Config.costGk (resFn b) (some .e) d) s

/-- `RES b,(IX+d),H` (R147, R148). -/
def execResIxH (b : BitVec 3) (d : Byte) (s : State) : Host.Outcome State Fault Refusal :=
  runHandler .ix (modifyInd Config.costGk (resFn b) (some .h) d) s

/-- `RES b,(IX+d),L` (R147, R148). -/
def execResIxL (b : BitVec 3) (d : Byte) (s : State) : Host.Outcome State Fault Refusal :=
  runHandler .ix (modifyInd Config.costGk (resFn b) (some .l) d) s

/-- `RES b,(IX+d)` (R147, R148). -/
def execResIx (b : BitVec 3) (d : Byte) (s : State) : Host.Outcome State Fault Refusal :=
  runHandler .ix (modifyInd Config.costGk (resFn b) none d) s

/-- `RES b,(IX+d),A` (R147, R148). -/
def execResIxA (b : BitVec 3) (d : Byte) (s : State) : Host.Outcome State Fault Refusal :=
  runHandler .ix (modifyInd Config.costGk (resFn b) (some .a) d) s

/-- `RES b,(IY+d),B` (R147, R148). -/
def execResIyB (b : BitVec 3) (d : Byte) (s : State) : Host.Outcome State Fault Refusal :=
  runHandler .iy (modifyInd Config.costGk (resFn b) (some .b) d) s

/-- `RES b,(IY+d),C` (R147, R148). -/
def execResIyC (b : BitVec 3) (d : Byte) (s : State) : Host.Outcome State Fault Refusal :=
  runHandler .iy (modifyInd Config.costGk (resFn b) (some .c) d) s

/-- `RES b,(IY+d),D` (R147, R148). -/
def execResIyD (b : BitVec 3) (d : Byte) (s : State) : Host.Outcome State Fault Refusal :=
  runHandler .iy (modifyInd Config.costGk (resFn b) (some .d) d) s

/-- `RES b,(IY+d),E` (R147, R148). -/
def execResIyE (b : BitVec 3) (d : Byte) (s : State) : Host.Outcome State Fault Refusal :=
  runHandler .iy (modifyInd Config.costGk (resFn b) (some .e) d) s

/-- `RES b,(IY+d),H` (R147, R148). -/
def execResIyH (b : BitVec 3) (d : Byte) (s : State) : Host.Outcome State Fault Refusal :=
  runHandler .iy (modifyInd Config.costGk (resFn b) (some .h) d) s

/-- `RES b,(IY+d),L` (R147, R148). -/
def execResIyL (b : BitVec 3) (d : Byte) (s : State) : Host.Outcome State Fault Refusal :=
  runHandler .iy (modifyInd Config.costGk (resFn b) (some .l) d) s

/-- `RES b,(IY+d)` (R147, R148). -/
def execResIy (b : BitVec 3) (d : Byte) (s : State) : Host.Outcome State Fault Refusal :=
  runHandler .iy (modifyInd Config.costGk (resFn b) none d) s

/-- `RES b,(IY+d),A` (R147, R148). -/
def execResIyA (b : BitVec 3) (d : Byte) (s : State) : Host.Outcome State Fault Refusal :=
  runHandler .iy (modifyInd Config.costGk (resFn b) (some .a) d) s

end Sys2Proof.Machine
end

