-- ==== Sys2Proof/Machine/GkRotateShift.lean ====
section
/-! DEFINITION. The meanings of RLC, RRC, RR, SLA, SLL, SRL on (XY+d) with optional register copy (44_gk_indexed_bit_remainder.md, general
knowledge: PRESUMED, log 3): one definition per row of
the opcode table, over the shared handlers of Machine/Indexed.lean. -/

namespace Sys2Proof.Machine

/-- `RLC (IX+d),B` (R141, R148). -/
def execRlcIxB (d : Byte) (s : State) : Host.Outcome State Fault Refusal :=
  runHandler .ix (shiftInd Config.costGk rlcFn (some .b) d) s

/-- `RLC (IX+d),C` (R141, R148). -/
def execRlcIxC (d : Byte) (s : State) : Host.Outcome State Fault Refusal :=
  runHandler .ix (shiftInd Config.costGk rlcFn (some .c) d) s

/-- `RLC (IX+d),D` (R141, R148). -/
def execRlcIxD (d : Byte) (s : State) : Host.Outcome State Fault Refusal :=
  runHandler .ix (shiftInd Config.costGk rlcFn (some .d) d) s

/-- `RLC (IX+d),E` (R141, R148). -/
def execRlcIxE (d : Byte) (s : State) : Host.Outcome State Fault Refusal :=
  runHandler .ix (shiftInd Config.costGk rlcFn (some .e) d) s

/-- `RLC (IX+d),H` (R141, R148). -/
def execRlcIxH (d : Byte) (s : State) : Host.Outcome State Fault Refusal :=
  runHandler .ix (shiftInd Config.costGk rlcFn (some .h) d) s

/-- `RLC (IX+d),L` (R141, R148). -/
def execRlcIxL (d : Byte) (s : State) : Host.Outcome State Fault Refusal :=
  runHandler .ix (shiftInd Config.costGk rlcFn (some .l) d) s

/-- `RLC (IX+d)` (R141, R148). -/
def execRlcIx (d : Byte) (s : State) : Host.Outcome State Fault Refusal :=
  runHandler .ix (shiftInd Config.costGk rlcFn none d) s

/-- `RLC (IX+d),A` (R141, R148). -/
def execRlcIxA (d : Byte) (s : State) : Host.Outcome State Fault Refusal :=
  runHandler .ix (shiftInd Config.costGk rlcFn (some .a) d) s

/-- `RRC (IX+d),B` (R142, R148). -/
def execRrcIxB (d : Byte) (s : State) : Host.Outcome State Fault Refusal :=
  runHandler .ix (shiftInd Config.costGk rrcFn (some .b) d) s

/-- `RRC (IX+d),C` (R142, R148). -/
def execRrcIxC (d : Byte) (s : State) : Host.Outcome State Fault Refusal :=
  runHandler .ix (shiftInd Config.costGk rrcFn (some .c) d) s

/-- `RRC (IX+d),D` (R142, R148). -/
def execRrcIxD (d : Byte) (s : State) : Host.Outcome State Fault Refusal :=
  runHandler .ix (shiftInd Config.costGk rrcFn (some .d) d) s

/-- `RRC (IX+d),E` (R142, R148). -/
def execRrcIxE (d : Byte) (s : State) : Host.Outcome State Fault Refusal :=
  runHandler .ix (shiftInd Config.costGk rrcFn (some .e) d) s

/-- `RRC (IX+d),H` (R142, R148). -/
def execRrcIxH (d : Byte) (s : State) : Host.Outcome State Fault Refusal :=
  runHandler .ix (shiftInd Config.costGk rrcFn (some .h) d) s

/-- `RRC (IX+d),L` (R142, R148). -/
def execRrcIxL (d : Byte) (s : State) : Host.Outcome State Fault Refusal :=
  runHandler .ix (shiftInd Config.costGk rrcFn (some .l) d) s

/-- `RRC (IX+d)` (R142, R148). -/
def execRrcIx (d : Byte) (s : State) : Host.Outcome State Fault Refusal :=
  runHandler .ix (shiftInd Config.costGk rrcFn none d) s

/-- `RRC (IX+d),A` (R142, R148). -/
def execRrcIxA (d : Byte) (s : State) : Host.Outcome State Fault Refusal :=
  runHandler .ix (shiftInd Config.costGk rrcFn (some .a) d) s

/-- `RR (IX+d),B` (R143, R148). -/
def execRrIxB (d : Byte) (s : State) : Host.Outcome State Fault Refusal :=
  runHandler .ix (shiftInd Config.costGk rrFn (some .b) d) s

/-- `RR (IX+d),C` (R143, R148). -/
def execRrIxC (d : Byte) (s : State) : Host.Outcome State Fault Refusal :=
  runHandler .ix (shiftInd Config.costGk rrFn (some .c) d) s

/-- `RR (IX+d),D` (R143, R148). -/
def execRrIxD (d : Byte) (s : State) : Host.Outcome State Fault Refusal :=
  runHandler .ix (shiftInd Config.costGk rrFn (some .d) d) s

/-- `RR (IX+d),E` (R143, R148). -/
def execRrIxE (d : Byte) (s : State) : Host.Outcome State Fault Refusal :=
  runHandler .ix (shiftInd Config.costGk rrFn (some .e) d) s

/-- `RR (IX+d),H` (R143, R148). -/
def execRrIxH (d : Byte) (s : State) : Host.Outcome State Fault Refusal :=
  runHandler .ix (shiftInd Config.costGk rrFn (some .h) d) s

/-- `RR (IX+d),L` (R143, R148). -/
def execRrIxL (d : Byte) (s : State) : Host.Outcome State Fault Refusal :=
  runHandler .ix (shiftInd Config.costGk rrFn (some .l) d) s

/-- `RR (IX+d)` (R143, R148). -/
def execRrIx (d : Byte) (s : State) : Host.Outcome State Fault Refusal :=
  runHandler .ix (shiftInd Config.costGk rrFn none d) s

/-- `RR (IX+d),A` (R143, R148). -/
def execRrIxA (d : Byte) (s : State) : Host.Outcome State Fault Refusal :=
  runHandler .ix (shiftInd Config.costGk rrFn (some .a) d) s

/-- `SLA (IX+d),B` (R144, R148). -/
def execSlaIxB (d : Byte) (s : State) : Host.Outcome State Fault Refusal :=
  runHandler .ix (shiftInd Config.costGk slaFn (some .b) d) s

/-- `SLA (IX+d),C` (R144, R148). -/
def execSlaIxC (d : Byte) (s : State) : Host.Outcome State Fault Refusal :=
  runHandler .ix (shiftInd Config.costGk slaFn (some .c) d) s

/-- `SLA (IX+d),D` (R144, R148). -/
def execSlaIxD (d : Byte) (s : State) : Host.Outcome State Fault Refusal :=
  runHandler .ix (shiftInd Config.costGk slaFn (some .d) d) s

/-- `SLA (IX+d),E` (R144, R148). -/
def execSlaIxE (d : Byte) (s : State) : Host.Outcome State Fault Refusal :=
  runHandler .ix (shiftInd Config.costGk slaFn (some .e) d) s

/-- `SLA (IX+d),H` (R144, R148). -/
def execSlaIxH (d : Byte) (s : State) : Host.Outcome State Fault Refusal :=
  runHandler .ix (shiftInd Config.costGk slaFn (some .h) d) s

/-- `SLA (IX+d),L` (R144, R148). -/
def execSlaIxL (d : Byte) (s : State) : Host.Outcome State Fault Refusal :=
  runHandler .ix (shiftInd Config.costGk slaFn (some .l) d) s

/-- `SLA (IX+d)` (R144, R148). -/
def execSlaIx (d : Byte) (s : State) : Host.Outcome State Fault Refusal :=
  runHandler .ix (shiftInd Config.costGk slaFn none d) s

/-- `SLA (IX+d),A` (R144, R148). -/
def execSlaIxA (d : Byte) (s : State) : Host.Outcome State Fault Refusal :=
  runHandler .ix (shiftInd Config.costGk slaFn (some .a) d) s

/-- `SLL (IX+d),B` (R145, R148). -/
def execSllIxB (d : Byte) (s : State) : Host.Outcome State Fault Refusal :=
  runHandler .ix (shiftInd Config.costGk sllFn (some .b) d) s

/-- `SLL (IX+d),C` (R145, R148). -/
def execSllIxC (d : Byte) (s : State) : Host.Outcome State Fault Refusal :=
  runHandler .ix (shiftInd Config.costGk sllFn (some .c) d) s

/-- `SLL (IX+d),D` (R145, R148). -/
def execSllIxD (d : Byte) (s : State) : Host.Outcome State Fault Refusal :=
  runHandler .ix (shiftInd Config.costGk sllFn (some .d) d) s

/-- `SLL (IX+d),E` (R145, R148). -/
def execSllIxE (d : Byte) (s : State) : Host.Outcome State Fault Refusal :=
  runHandler .ix (shiftInd Config.costGk sllFn (some .e) d) s

/-- `SLL (IX+d),H` (R145, R148). -/
def execSllIxH (d : Byte) (s : State) : Host.Outcome State Fault Refusal :=
  runHandler .ix (shiftInd Config.costGk sllFn (some .h) d) s

/-- `SLL (IX+d),L` (R145, R148). -/
def execSllIxL (d : Byte) (s : State) : Host.Outcome State Fault Refusal :=
  runHandler .ix (shiftInd Config.costGk sllFn (some .l) d) s

/-- `SLL (IX+d)` (R145, R148). -/
def execSllIx (d : Byte) (s : State) : Host.Outcome State Fault Refusal :=
  runHandler .ix (shiftInd Config.costGk sllFn none d) s

/-- `SLL (IX+d),A` (R145, R148). -/
def execSllIxA (d : Byte) (s : State) : Host.Outcome State Fault Refusal :=
  runHandler .ix (shiftInd Config.costGk sllFn (some .a) d) s

/-- `SRL (IX+d),B` (R146, R148). -/
def execSrlIxB (d : Byte) (s : State) : Host.Outcome State Fault Refusal :=
  runHandler .ix (shiftInd Config.costGk srlFn (some .b) d) s

/-- `SRL (IX+d),C` (R146, R148). -/
def execSrlIxC (d : Byte) (s : State) : Host.Outcome State Fault Refusal :=
  runHandler .ix (shiftInd Config.costGk srlFn (some .c) d) s

/-- `SRL (IX+d),D` (R146, R148). -/
def execSrlIxD (d : Byte) (s : State) : Host.Outcome State Fault Refusal :=
  runHandler .ix (shiftInd Config.costGk srlFn (some .d) d) s

/-- `SRL (IX+d),E` (R146, R148). -/
def execSrlIxE (d : Byte) (s : State) : Host.Outcome State Fault Refusal :=
  runHandler .ix (shiftInd Config.costGk srlFn (some .e) d) s

/-- `SRL (IX+d),H` (R146, R148). -/
def execSrlIxH (d : Byte) (s : State) : Host.Outcome State Fault Refusal :=
  runHandler .ix (shiftInd Config.costGk srlFn (some .h) d) s

/-- `SRL (IX+d),L` (R146, R148). -/
def execSrlIxL (d : Byte) (s : State) : Host.Outcome State Fault Refusal :=
  runHandler .ix (shiftInd Config.costGk srlFn (some .l) d) s

/-- `SRL (IX+d)` (R146, R148). -/
def execSrlIx (d : Byte) (s : State) : Host.Outcome State Fault Refusal :=
  runHandler .ix (shiftInd Config.costGk srlFn none d) s

/-- `SRL (IX+d),A` (R146, R148). -/
def execSrlIxA (d : Byte) (s : State) : Host.Outcome State Fault Refusal :=
  runHandler .ix (shiftInd Config.costGk srlFn (some .a) d) s

/-- `RLC (IY+d),B` (R141, R148). -/
def execRlcIyB (d : Byte) (s : State) : Host.Outcome State Fault Refusal :=
  runHandler .iy (shiftInd Config.costGk rlcFn (some .b) d) s

/-- `RLC (IY+d),C` (R141, R148). -/
def execRlcIyC (d : Byte) (s : State) : Host.Outcome State Fault Refusal :=
  runHandler .iy (shiftInd Config.costGk rlcFn (some .c) d) s

/-- `RLC (IY+d),D` (R141, R148). -/
def execRlcIyD (d : Byte) (s : State) : Host.Outcome State Fault Refusal :=
  runHandler .iy (shiftInd Config.costGk rlcFn (some .d) d) s

/-- `RLC (IY+d),E` (R141, R148). -/
def execRlcIyE (d : Byte) (s : State) : Host.Outcome State Fault Refusal :=
  runHandler .iy (shiftInd Config.costGk rlcFn (some .e) d) s

/-- `RLC (IY+d),H` (R141, R148). -/
def execRlcIyH (d : Byte) (s : State) : Host.Outcome State Fault Refusal :=
  runHandler .iy (shiftInd Config.costGk rlcFn (some .h) d) s

/-- `RLC (IY+d),L` (R141, R148). -/
def execRlcIyL (d : Byte) (s : State) : Host.Outcome State Fault Refusal :=
  runHandler .iy (shiftInd Config.costGk rlcFn (some .l) d) s

/-- `RLC (IY+d)` (R141, R148). -/
def execRlcIy (d : Byte) (s : State) : Host.Outcome State Fault Refusal :=
  runHandler .iy (shiftInd Config.costGk rlcFn none d) s

/-- `RLC (IY+d),A` (R141, R148). -/
def execRlcIyA (d : Byte) (s : State) : Host.Outcome State Fault Refusal :=
  runHandler .iy (shiftInd Config.costGk rlcFn (some .a) d) s

/-- `RRC (IY+d),B` (R142, R148). -/
def execRrcIyB (d : Byte) (s : State) : Host.Outcome State Fault Refusal :=
  runHandler .iy (shiftInd Config.costGk rrcFn (some .b) d) s

/-- `RRC (IY+d),C` (R142, R148). -/
def execRrcIyC (d : Byte) (s : State) : Host.Outcome State Fault Refusal :=
  runHandler .iy (shiftInd Config.costGk rrcFn (some .c) d) s

/-- `RRC (IY+d),D` (R142, R148). -/
def execRrcIyD (d : Byte) (s : State) : Host.Outcome State Fault Refusal :=
  runHandler .iy (shiftInd Config.costGk rrcFn (some .d) d) s

/-- `RRC (IY+d),E` (R142, R148). -/
def execRrcIyE (d : Byte) (s : State) : Host.Outcome State Fault Refusal :=
  runHandler .iy (shiftInd Config.costGk rrcFn (some .e) d) s

/-- `RRC (IY+d),H` (R142, R148). -/
def execRrcIyH (d : Byte) (s : State) : Host.Outcome State Fault Refusal :=
  runHandler .iy (shiftInd Config.costGk rrcFn (some .h) d) s

/-- `RRC (IY+d),L` (R142, R148). -/
def execRrcIyL (d : Byte) (s : State) : Host.Outcome State Fault Refusal :=
  runHandler .iy (shiftInd Config.costGk rrcFn (some .l) d) s

/-- `RRC (IY+d)` (R142, R148). -/
def execRrcIy (d : Byte) (s : State) : Host.Outcome State Fault Refusal :=
  runHandler .iy (shiftInd Config.costGk rrcFn none d) s

/-- `RRC (IY+d),A` (R142, R148). -/
def execRrcIyA (d : Byte) (s : State) : Host.Outcome State Fault Refusal :=
  runHandler .iy (shiftInd Config.costGk rrcFn (some .a) d) s

/-- `RR (IY+d),B` (R143, R148). -/
def execRrIyB (d : Byte) (s : State) : Host.Outcome State Fault Refusal :=
  runHandler .iy (shiftInd Config.costGk rrFn (some .b) d) s

/-- `RR (IY+d),C` (R143, R148). -/
def execRrIyC (d : Byte) (s : State) : Host.Outcome State Fault Refusal :=
  runHandler .iy (shiftInd Config.costGk rrFn (some .c) d) s

/-- `RR (IY+d),D` (R143, R148). -/
def execRrIyD (d : Byte) (s : State) : Host.Outcome State Fault Refusal :=
  runHandler .iy (shiftInd Config.costGk rrFn (some .d) d) s

/-- `RR (IY+d),E` (R143, R148). -/
def execRrIyE (d : Byte) (s : State) : Host.Outcome State Fault Refusal :=
  runHandler .iy (shiftInd Config.costGk rrFn (some .e) d) s

/-- `RR (IY+d),H` (R143, R148). -/
def execRrIyH (d : Byte) (s : State) : Host.Outcome State Fault Refusal :=
  runHandler .iy (shiftInd Config.costGk rrFn (some .h) d) s

/-- `RR (IY+d),L` (R143, R148). -/
def execRrIyL (d : Byte) (s : State) : Host.Outcome State Fault Refusal :=
  runHandler .iy (shiftInd Config.costGk rrFn (some .l) d) s

/-- `RR (IY+d)` (R143, R148). -/
def execRrIy (d : Byte) (s : State) : Host.Outcome State Fault Refusal :=
  runHandler .iy (shiftInd Config.costGk rrFn none d) s

/-- `RR (IY+d),A` (R143, R148). -/
def execRrIyA (d : Byte) (s : State) : Host.Outcome State Fault Refusal :=
  runHandler .iy (shiftInd Config.costGk rrFn (some .a) d) s

/-- `SLA (IY+d),B` (R144, R148). -/
def execSlaIyB (d : Byte) (s : State) : Host.Outcome State Fault Refusal :=
  runHandler .iy (shiftInd Config.costGk slaFn (some .b) d) s

/-- `SLA (IY+d),C` (R144, R148). -/
def execSlaIyC (d : Byte) (s : State) : Host.Outcome State Fault Refusal :=
  runHandler .iy (shiftInd Config.costGk slaFn (some .c) d) s

/-- `SLA (IY+d),D` (R144, R148). -/
def execSlaIyD (d : Byte) (s : State) : Host.Outcome State Fault Refusal :=
  runHandler .iy (shiftInd Config.costGk slaFn (some .d) d) s

/-- `SLA (IY+d),E` (R144, R148). -/
def execSlaIyE (d : Byte) (s : State) : Host.Outcome State Fault Refusal :=
  runHandler .iy (shiftInd Config.costGk slaFn (some .e) d) s

/-- `SLA (IY+d),H` (R144, R148). -/
def execSlaIyH (d : Byte) (s : State) : Host.Outcome State Fault Refusal :=
  runHandler .iy (shiftInd Config.costGk slaFn (some .h) d) s

/-- `SLA (IY+d),L` (R144, R148). -/
def execSlaIyL (d : Byte) (s : State) : Host.Outcome State Fault Refusal :=
  runHandler .iy (shiftInd Config.costGk slaFn (some .l) d) s

/-- `SLA (IY+d)` (R144, R148). -/
def execSlaIy (d : Byte) (s : State) : Host.Outcome State Fault Refusal :=
  runHandler .iy (shiftInd Config.costGk slaFn none d) s

/-- `SLA (IY+d),A` (R144, R148). -/
def execSlaIyA (d : Byte) (s : State) : Host.Outcome State Fault Refusal :=
  runHandler .iy (shiftInd Config.costGk slaFn (some .a) d) s

/-- `SLL (IY+d),B` (R145, R148). -/
def execSllIyB (d : Byte) (s : State) : Host.Outcome State Fault Refusal :=
  runHandler .iy (shiftInd Config.costGk sllFn (some .b) d) s

/-- `SLL (IY+d),C` (R145, R148). -/
def execSllIyC (d : Byte) (s : State) : Host.Outcome State Fault Refusal :=
  runHandler .iy (shiftInd Config.costGk sllFn (some .c) d) s

/-- `SLL (IY+d),D` (R145, R148). -/
def execSllIyD (d : Byte) (s : State) : Host.Outcome State Fault Refusal :=
  runHandler .iy (shiftInd Config.costGk sllFn (some .d) d) s

/-- `SLL (IY+d),E` (R145, R148). -/
def execSllIyE (d : Byte) (s : State) : Host.Outcome State Fault Refusal :=
  runHandler .iy (shiftInd Config.costGk sllFn (some .e) d) s

/-- `SLL (IY+d),H` (R145, R148). -/
def execSllIyH (d : Byte) (s : State) : Host.Outcome State Fault Refusal :=
  runHandler .iy (shiftInd Config.costGk sllFn (some .h) d) s

/-- `SLL (IY+d),L` (R145, R148). -/
def execSllIyL (d : Byte) (s : State) : Host.Outcome State Fault Refusal :=
  runHandler .iy (shiftInd Config.costGk sllFn (some .l) d) s

/-- `SLL (IY+d)` (R145, R148). -/
def execSllIy (d : Byte) (s : State) : Host.Outcome State Fault Refusal :=
  runHandler .iy (shiftInd Config.costGk sllFn none d) s

/-- `SLL (IY+d),A` (R145, R148). -/
def execSllIyA (d : Byte) (s : State) : Host.Outcome State Fault Refusal :=
  runHandler .iy (shiftInd Config.costGk sllFn (some .a) d) s

/-- `SRL (IY+d),B` (R146, R148). -/
def execSrlIyB (d : Byte) (s : State) : Host.Outcome State Fault Refusal :=
  runHandler .iy (shiftInd Config.costGk srlFn (some .b) d) s

/-- `SRL (IY+d),C` (R146, R148). -/
def execSrlIyC (d : Byte) (s : State) : Host.Outcome State Fault Refusal :=
  runHandler .iy (shiftInd Config.costGk srlFn (some .c) d) s

/-- `SRL (IY+d),D` (R146, R148). -/
def execSrlIyD (d : Byte) (s : State) : Host.Outcome State Fault Refusal :=
  runHandler .iy (shiftInd Config.costGk srlFn (some .d) d) s

/-- `SRL (IY+d),E` (R146, R148). -/
def execSrlIyE (d : Byte) (s : State) : Host.Outcome State Fault Refusal :=
  runHandler .iy (shiftInd Config.costGk srlFn (some .e) d) s

/-- `SRL (IY+d),H` (R146, R148). -/
def execSrlIyH (d : Byte) (s : State) : Host.Outcome State Fault Refusal :=
  runHandler .iy (shiftInd Config.costGk srlFn (some .h) d) s

/-- `SRL (IY+d),L` (R146, R148). -/
def execSrlIyL (d : Byte) (s : State) : Host.Outcome State Fault Refusal :=
  runHandler .iy (shiftInd Config.costGk srlFn (some .l) d) s

/-- `SRL (IY+d)` (R146, R148). -/
def execSrlIy (d : Byte) (s : State) : Host.Outcome State Fault Refusal :=
  runHandler .iy (shiftInd Config.costGk srlFn none d) s

/-- `SRL (IY+d),A` (R146, R148). -/
def execSrlIyA (d : Byte) (s : State) : Host.Outcome State Fault Refusal :=
  runHandler .iy (shiftInd Config.costGk srlFn (some .a) d) s

end Sys2Proof.Machine
end

