-- ==== Sys2Proof/Machine/RotateShift.lean ====
section
/-! DEFINITION. The meanings of RL and SRA on (XY+d) with optional register copy (42_rotate_shift_indexed.md): one definition per row of
the opcode table, over the shared handlers of Machine/Indexed.lean. -/

namespace Sys2Proof.Machine

/-- `RL (IX+d),B` (R122, R123). -/
def execRlIxB (d : Byte) (s : State) : Host.Outcome State Fault Refusal :=
  runHandler .ix (shiftInd Config.costRl rlFn (some .b) d) s

/-- `RL (IX+d),C` (R122, R123). -/
def execRlIxC (d : Byte) (s : State) : Host.Outcome State Fault Refusal :=
  runHandler .ix (shiftInd Config.costRl rlFn (some .c) d) s

/-- `RL (IX+d),D` (R122, R123). -/
def execRlIxD (d : Byte) (s : State) : Host.Outcome State Fault Refusal :=
  runHandler .ix (shiftInd Config.costRl rlFn (some .d) d) s

/-- `RL (IX+d),E` (R122, R123). -/
def execRlIxE (d : Byte) (s : State) : Host.Outcome State Fault Refusal :=
  runHandler .ix (shiftInd Config.costRl rlFn (some .e) d) s

/-- `RL (IX+d),H` (R122, R123). -/
def execRlIxH (d : Byte) (s : State) : Host.Outcome State Fault Refusal :=
  runHandler .ix (shiftInd Config.costRl rlFn (some .h) d) s

/-- `RL (IX+d),L` (R122, R123). -/
def execRlIxL (d : Byte) (s : State) : Host.Outcome State Fault Refusal :=
  runHandler .ix (shiftInd Config.costRl rlFn (some .l) d) s

/-- `RL (IX+d)` (R122, R123). -/
def execRlIx (d : Byte) (s : State) : Host.Outcome State Fault Refusal :=
  runHandler .ix (shiftInd Config.costRl rlFn none d) s

/-- `RL (IX+d),A` (R122, R123). -/
def execRlIxA (d : Byte) (s : State) : Host.Outcome State Fault Refusal :=
  runHandler .ix (shiftInd Config.costRl rlFn (some .a) d) s

/-- `SRA (IX+d),B` (R124, R125). -/
def execSraIxB (d : Byte) (s : State) : Host.Outcome State Fault Refusal :=
  runHandler .ix (shiftInd Config.costSra sraFn (some .b) d) s

/-- `SRA (IX+d),C` (R124, R125). -/
def execSraIxC (d : Byte) (s : State) : Host.Outcome State Fault Refusal :=
  runHandler .ix (shiftInd Config.costSra sraFn (some .c) d) s

/-- `SRA (IX+d),D` (R124, R125). -/
def execSraIxD (d : Byte) (s : State) : Host.Outcome State Fault Refusal :=
  runHandler .ix (shiftInd Config.costSra sraFn (some .d) d) s

/-- `SRA (IX+d),E` (R124, R125). -/
def execSraIxE (d : Byte) (s : State) : Host.Outcome State Fault Refusal :=
  runHandler .ix (shiftInd Config.costSra sraFn (some .e) d) s

/-- `SRA (IX+d),H` (R124, R125). -/
def execSraIxH (d : Byte) (s : State) : Host.Outcome State Fault Refusal :=
  runHandler .ix (shiftInd Config.costSra sraFn (some .h) d) s

/-- `SRA (IX+d),L` (R124, R125). -/
def execSraIxL (d : Byte) (s : State) : Host.Outcome State Fault Refusal :=
  runHandler .ix (shiftInd Config.costSra sraFn (some .l) d) s

/-- `SRA (IX+d)` (R124, R125). -/
def execSraIx (d : Byte) (s : State) : Host.Outcome State Fault Refusal :=
  runHandler .ix (shiftInd Config.costSra sraFn none d) s

/-- `SRA (IX+d),A` (R124, R125). -/
def execSraIxA (d : Byte) (s : State) : Host.Outcome State Fault Refusal :=
  runHandler .ix (shiftInd Config.costSra sraFn (some .a) d) s

/-- `RL (IY+d),B` (R122, R123). -/
def execRlIyB (d : Byte) (s : State) : Host.Outcome State Fault Refusal :=
  runHandler .iy (shiftInd Config.costRl rlFn (some .b) d) s

/-- `RL (IY+d),C` (R122, R123). -/
def execRlIyC (d : Byte) (s : State) : Host.Outcome State Fault Refusal :=
  runHandler .iy (shiftInd Config.costRl rlFn (some .c) d) s

/-- `RL (IY+d),D` (R122, R123). -/
def execRlIyD (d : Byte) (s : State) : Host.Outcome State Fault Refusal :=
  runHandler .iy (shiftInd Config.costRl rlFn (some .d) d) s

/-- `RL (IY+d),E` (R122, R123). -/
def execRlIyE (d : Byte) (s : State) : Host.Outcome State Fault Refusal :=
  runHandler .iy (shiftInd Config.costRl rlFn (some .e) d) s

/-- `RL (IY+d),H` (R122, R123). -/
def execRlIyH (d : Byte) (s : State) : Host.Outcome State Fault Refusal :=
  runHandler .iy (shiftInd Config.costRl rlFn (some .h) d) s

/-- `RL (IY+d),L` (R122, R123). -/
def execRlIyL (d : Byte) (s : State) : Host.Outcome State Fault Refusal :=
  runHandler .iy (shiftInd Config.costRl rlFn (some .l) d) s

/-- `RL (IY+d)` (R122, R123). -/
def execRlIy (d : Byte) (s : State) : Host.Outcome State Fault Refusal :=
  runHandler .iy (shiftInd Config.costRl rlFn none d) s

/-- `RL (IY+d),A` (R122, R123). -/
def execRlIyA (d : Byte) (s : State) : Host.Outcome State Fault Refusal :=
  runHandler .iy (shiftInd Config.costRl rlFn (some .a) d) s

/-- `SRA (IY+d),B` (R124, R125). -/
def execSraIyB (d : Byte) (s : State) : Host.Outcome State Fault Refusal :=
  runHandler .iy (shiftInd Config.costSra sraFn (some .b) d) s

/-- `SRA (IY+d),C` (R124, R125). -/
def execSraIyC (d : Byte) (s : State) : Host.Outcome State Fault Refusal :=
  runHandler .iy (shiftInd Config.costSra sraFn (some .c) d) s

/-- `SRA (IY+d),D` (R124, R125). -/
def execSraIyD (d : Byte) (s : State) : Host.Outcome State Fault Refusal :=
  runHandler .iy (shiftInd Config.costSra sraFn (some .d) d) s

/-- `SRA (IY+d),E` (R124, R125). -/
def execSraIyE (d : Byte) (s : State) : Host.Outcome State Fault Refusal :=
  runHandler .iy (shiftInd Config.costSra sraFn (some .e) d) s

/-- `SRA (IY+d),H` (R124, R125). -/
def execSraIyH (d : Byte) (s : State) : Host.Outcome State Fault Refusal :=
  runHandler .iy (shiftInd Config.costSra sraFn (some .h) d) s

/-- `SRA (IY+d),L` (R124, R125). -/
def execSraIyL (d : Byte) (s : State) : Host.Outcome State Fault Refusal :=
  runHandler .iy (shiftInd Config.costSra sraFn (some .l) d) s

/-- `SRA (IY+d)` (R124, R125). -/
def execSraIy (d : Byte) (s : State) : Host.Outcome State Fault Refusal :=
  runHandler .iy (shiftInd Config.costSra sraFn none d) s

/-- `SRA (IY+d),A` (R124, R125). -/
def execSraIyA (d : Byte) (s : State) : Host.Outcome State Fault Refusal :=
  runHandler .iy (shiftInd Config.costSra sraFn (some .a) d) s

end Sys2Proof.Machine
end

