-- ==== Sys2Proof/Machine/SetBit.lean ====
section
/-! DEFINITION. The meanings of SET b,(XY+d) with optional register copy (43_set_bit_indexed.md): one definition per row of
the opcode table, over the shared handlers of Machine/Indexed.lean. -/

namespace Sys2Proof.Machine

/-- `SET b,(IX+d),B` (R132, R133). -/
def execSetIxB (b : BitVec 3) (d : Byte) (s : State) : Host.Outcome State Fault Refusal :=
  runHandler .ix (modifyInd Config.costSet (setFn b) (some .b) d) s

/-- `SET b,(IX+d),C` (R132, R133). -/
def execSetIxC (b : BitVec 3) (d : Byte) (s : State) : Host.Outcome State Fault Refusal :=
  runHandler .ix (modifyInd Config.costSet (setFn b) (some .c) d) s

/-- `SET b,(IX+d),D` (R132, R133). -/
def execSetIxD (b : BitVec 3) (d : Byte) (s : State) : Host.Outcome State Fault Refusal :=
  runHandler .ix (modifyInd Config.costSet (setFn b) (some .d) d) s

/-- `SET b,(IX+d),E` (R132, R133). -/
def execSetIxE (b : BitVec 3) (d : Byte) (s : State) : Host.Outcome State Fault Refusal :=
  runHandler .ix (modifyInd Config.costSet (setFn b) (some .e) d) s

/-- `SET b,(IX+d),H` (R132, R133). -/
def execSetIxH (b : BitVec 3) (d : Byte) (s : State) : Host.Outcome State Fault Refusal :=
  runHandler .ix (modifyInd Config.costSet (setFn b) (some .h) d) s

/-- `SET b,(IX+d),L` (R132, R133). -/
def execSetIxL (b : BitVec 3) (d : Byte) (s : State) : Host.Outcome State Fault Refusal :=
  runHandler .ix (modifyInd Config.costSet (setFn b) (some .l) d) s

/-- `SET b,(IX+d)` (R132, R133). -/
def execSetIx (b : BitVec 3) (d : Byte) (s : State) : Host.Outcome State Fault Refusal :=
  runHandler .ix (modifyInd Config.costSet (setFn b) none d) s

/-- `SET b,(IX+d),A` (R132, R133). -/
def execSetIxA (b : BitVec 3) (d : Byte) (s : State) : Host.Outcome State Fault Refusal :=
  runHandler .ix (modifyInd Config.costSet (setFn b) (some .a) d) s

/-- `SET b,(IY+d),B` (R132, R133). -/
def execSetIyB (b : BitVec 3) (d : Byte) (s : State) : Host.Outcome State Fault Refusal :=
  runHandler .iy (modifyInd Config.costSet (setFn b) (some .b) d) s

/-- `SET b,(IY+d),C` (R132, R133). -/
def execSetIyC (b : BitVec 3) (d : Byte) (s : State) : Host.Outcome State Fault Refusal :=
  runHandler .iy (modifyInd Config.costSet (setFn b) (some .c) d) s

/-- `SET b,(IY+d),D` (R132, R133). -/
def execSetIyD (b : BitVec 3) (d : Byte) (s : State) : Host.Outcome State Fault Refusal :=
  runHandler .iy (modifyInd Config.costSet (setFn b) (some .d) d) s

/-- `SET b,(IY+d),E` (R132, R133). -/
def execSetIyE (b : BitVec 3) (d : Byte) (s : State) : Host.Outcome State Fault Refusal :=
  runHandler .iy (modifyInd Config.costSet (setFn b) (some .e) d) s

/-- `SET b,(IY+d),H` (R132, R133). -/
def execSetIyH (b : BitVec 3) (d : Byte) (s : State) : Host.Outcome State Fault Refusal :=
  runHandler .iy (modifyInd Config.costSet (setFn b) (some .h) d) s

/-- `SET b,(IY+d),L` (R132, R133). -/
def execSetIyL (b : BitVec 3) (d : Byte) (s : State) : Host.Outcome State Fault Refusal :=
  runHandler .iy (modifyInd Config.costSet (setFn b) (some .l) d) s

/-- `SET b,(IY+d)` (R132, R133). -/
def execSetIy (b : BitVec 3) (d : Byte) (s : State) : Host.Outcome State Fault Refusal :=
  runHandler .iy (modifyInd Config.costSet (setFn b) none d) s

/-- `SET b,(IY+d),A` (R132, R133). -/
def execSetIyA (b : BitVec 3) (d : Byte) (s : State) : Host.Outcome State Fault Refusal :=
  runHandler .iy (modifyInd Config.costSet (setFn b) (some .a) d) s

end Sys2Proof.Machine
end

