-- ==== Sys2Proof/Machine/Dispatch.lean ====
section
/-! DEFINITION. The dispatch of the instructions to their meanings: one arm per constructor. -/

namespace Sys2Proof.Machine

def exec (i : Instr) (s : State) : Host.Outcome State Fault Refusal :=
  match i with
  | .bitIx b d r => Sys2Proof.Machine.execBitIx b d r s
  | .rlIxB d => Sys2Proof.Machine.execRlIxB d s
  | .rlIxC d => Sys2Proof.Machine.execRlIxC d s
  | .rlIxD d => Sys2Proof.Machine.execRlIxD d s
  | .rlIxE d => Sys2Proof.Machine.execRlIxE d s
  | .rlIxH d => Sys2Proof.Machine.execRlIxH d s
  | .rlIxL d => Sys2Proof.Machine.execRlIxL d s
  | .rlIx d => Sys2Proof.Machine.execRlIx d s
  | .rlIxA d => Sys2Proof.Machine.execRlIxA d s
  | .sraIxB d => Sys2Proof.Machine.execSraIxB d s
  | .sraIxC d => Sys2Proof.Machine.execSraIxC d s
  | .sraIxD d => Sys2Proof.Machine.execSraIxD d s
  | .sraIxE d => Sys2Proof.Machine.execSraIxE d s
  | .sraIxH d => Sys2Proof.Machine.execSraIxH d s
  | .sraIxL d => Sys2Proof.Machine.execSraIxL d s
  | .sraIx d => Sys2Proof.Machine.execSraIx d s
  | .sraIxA d => Sys2Proof.Machine.execSraIxA d s
  | .setIxB b d => Sys2Proof.Machine.execSetIxB b d s
  | .setIxC b d => Sys2Proof.Machine.execSetIxC b d s
  | .setIxD b d => Sys2Proof.Machine.execSetIxD b d s
  | .setIxE b d => Sys2Proof.Machine.execSetIxE b d s
  | .setIxH b d => Sys2Proof.Machine.execSetIxH b d s
  | .setIxL b d => Sys2Proof.Machine.execSetIxL b d s
  | .setIx b d => Sys2Proof.Machine.execSetIx b d s
  | .setIxA b d => Sys2Proof.Machine.execSetIxA b d s
  | .rlcIxB d => Sys2Proof.Machine.execRlcIxB d s
  | .rlcIxC d => Sys2Proof.Machine.execRlcIxC d s
  | .rlcIxD d => Sys2Proof.Machine.execRlcIxD d s
  | .rlcIxE d => Sys2Proof.Machine.execRlcIxE d s
  | .rlcIxH d => Sys2Proof.Machine.execRlcIxH d s
  | .rlcIxL d => Sys2Proof.Machine.execRlcIxL d s
  | .rlcIx d => Sys2Proof.Machine.execRlcIx d s
  | .rlcIxA d => Sys2Proof.Machine.execRlcIxA d s
  | .rrcIxB d => Sys2Proof.Machine.execRrcIxB d s
  | .rrcIxC d => Sys2Proof.Machine.execRrcIxC d s
  | .rrcIxD d => Sys2Proof.Machine.execRrcIxD d s
  | .rrcIxE d => Sys2Proof.Machine.execRrcIxE d s
  | .rrcIxH d => Sys2Proof.Machine.execRrcIxH d s
  | .rrcIxL d => Sys2Proof.Machine.execRrcIxL d s
  | .rrcIx d => Sys2Proof.Machine.execRrcIx d s
  | .rrcIxA d => Sys2Proof.Machine.execRrcIxA d s
  | .rrIxB d => Sys2Proof.Machine.execRrIxB d s
  | .rrIxC d => Sys2Proof.Machine.execRrIxC d s
  | .rrIxD d => Sys2Proof.Machine.execRrIxD d s
  | .rrIxE d => Sys2Proof.Machine.execRrIxE d s
  | .rrIxH d => Sys2Proof.Machine.execRrIxH d s
  | .rrIxL d => Sys2Proof.Machine.execRrIxL d s
  | .rrIx d => Sys2Proof.Machine.execRrIx d s
  | .rrIxA d => Sys2Proof.Machine.execRrIxA d s
  | .slaIxB d => Sys2Proof.Machine.execSlaIxB d s
  | .slaIxC d => Sys2Proof.Machine.execSlaIxC d s
  | .slaIxD d => Sys2Proof.Machine.execSlaIxD d s
  | .slaIxE d => Sys2Proof.Machine.execSlaIxE d s
  | .slaIxH d => Sys2Proof.Machine.execSlaIxH d s
  | .slaIxL d => Sys2Proof.Machine.execSlaIxL d s
  | .slaIx d => Sys2Proof.Machine.execSlaIx d s
  | .slaIxA d => Sys2Proof.Machine.execSlaIxA d s
  | .sllIxB d => Sys2Proof.Machine.execSllIxB d s
  | .sllIxC d => Sys2Proof.Machine.execSllIxC d s
  | .sllIxD d => Sys2Proof.Machine.execSllIxD d s
  | .sllIxE d => Sys2Proof.Machine.execSllIxE d s
  | .sllIxH d => Sys2Proof.Machine.execSllIxH d s
  | .sllIxL d => Sys2Proof.Machine.execSllIxL d s
  | .sllIx d => Sys2Proof.Machine.execSllIx d s
  | .sllIxA d => Sys2Proof.Machine.execSllIxA d s
  | .srlIxB d => Sys2Proof.Machine.execSrlIxB d s
  | .srlIxC d => Sys2Proof.Machine.execSrlIxC d s
  | .srlIxD d => Sys2Proof.Machine.execSrlIxD d s
  | .srlIxE d => Sys2Proof.Machine.execSrlIxE d s
  | .srlIxH d => Sys2Proof.Machine.execSrlIxH d s
  | .srlIxL d => Sys2Proof.Machine.execSrlIxL d s
  | .srlIx d => Sys2Proof.Machine.execSrlIx d s
  | .srlIxA d => Sys2Proof.Machine.execSrlIxA d s
  | .resIxB b d => Sys2Proof.Machine.execResIxB b d s
  | .resIxC b d => Sys2Proof.Machine.execResIxC b d s
  | .resIxD b d => Sys2Proof.Machine.execResIxD b d s
  | .resIxE b d => Sys2Proof.Machine.execResIxE b d s
  | .resIxH b d => Sys2Proof.Machine.execResIxH b d s
  | .resIxL b d => Sys2Proof.Machine.execResIxL b d s
  | .resIx b d => Sys2Proof.Machine.execResIx b d s
  | .resIxA b d => Sys2Proof.Machine.execResIxA b d s
  | .bitIy b d r => Sys2Proof.Machine.execBitIy b d r s
  | .rlIyB d => Sys2Proof.Machine.execRlIyB d s
  | .rlIyC d => Sys2Proof.Machine.execRlIyC d s
  | .rlIyD d => Sys2Proof.Machine.execRlIyD d s
  | .rlIyE d => Sys2Proof.Machine.execRlIyE d s
  | .rlIyH d => Sys2Proof.Machine.execRlIyH d s
  | .rlIyL d => Sys2Proof.Machine.execRlIyL d s
  | .rlIy d => Sys2Proof.Machine.execRlIy d s
  | .rlIyA d => Sys2Proof.Machine.execRlIyA d s
  | .sraIyB d => Sys2Proof.Machine.execSraIyB d s
  | .sraIyC d => Sys2Proof.Machine.execSraIyC d s
  | .sraIyD d => Sys2Proof.Machine.execSraIyD d s
  | .sraIyE d => Sys2Proof.Machine.execSraIyE d s
  | .sraIyH d => Sys2Proof.Machine.execSraIyH d s
  | .sraIyL d => Sys2Proof.Machine.execSraIyL d s
  | .sraIy d => Sys2Proof.Machine.execSraIy d s
  | .sraIyA d => Sys2Proof.Machine.execSraIyA d s
  | .setIyB b d => Sys2Proof.Machine.execSetIyB b d s
  | .setIyC b d => Sys2Proof.Machine.execSetIyC b d s
  | .setIyD b d => Sys2Proof.Machine.execSetIyD b d s
  | .setIyE b d => Sys2Proof.Machine.execSetIyE b d s
  | .setIyH b d => Sys2Proof.Machine.execSetIyH b d s
  | .setIyL b d => Sys2Proof.Machine.execSetIyL b d s
  | .setIy b d => Sys2Proof.Machine.execSetIy b d s
  | .setIyA b d => Sys2Proof.Machine.execSetIyA b d s
  | .rlcIyB d => Sys2Proof.Machine.execRlcIyB d s
  | .rlcIyC d => Sys2Proof.Machine.execRlcIyC d s
  | .rlcIyD d => Sys2Proof.Machine.execRlcIyD d s
  | .rlcIyE d => Sys2Proof.Machine.execRlcIyE d s
  | .rlcIyH d => Sys2Proof.Machine.execRlcIyH d s
  | .rlcIyL d => Sys2Proof.Machine.execRlcIyL d s
  | .rlcIy d => Sys2Proof.Machine.execRlcIy d s
  | .rlcIyA d => Sys2Proof.Machine.execRlcIyA d s
  | .rrcIyB d => Sys2Proof.Machine.execRrcIyB d s
  | .rrcIyC d => Sys2Proof.Machine.execRrcIyC d s
  | .rrcIyD d => Sys2Proof.Machine.execRrcIyD d s
  | .rrcIyE d => Sys2Proof.Machine.execRrcIyE d s
  | .rrcIyH d => Sys2Proof.Machine.execRrcIyH d s
  | .rrcIyL d => Sys2Proof.Machine.execRrcIyL d s
  | .rrcIy d => Sys2Proof.Machine.execRrcIy d s
  | .rrcIyA d => Sys2Proof.Machine.execRrcIyA d s
  | .rrIyB d => Sys2Proof.Machine.execRrIyB d s
  | .rrIyC d => Sys2Proof.Machine.execRrIyC d s
  | .rrIyD d => Sys2Proof.Machine.execRrIyD d s
  | .rrIyE d => Sys2Proof.Machine.execRrIyE d s
  | .rrIyH d => Sys2Proof.Machine.execRrIyH d s
  | .rrIyL d => Sys2Proof.Machine.execRrIyL d s
  | .rrIy d => Sys2Proof.Machine.execRrIy d s
  | .rrIyA d => Sys2Proof.Machine.execRrIyA d s
  | .slaIyB d => Sys2Proof.Machine.execSlaIyB d s
  | .slaIyC d => Sys2Proof.Machine.execSlaIyC d s
  | .slaIyD d => Sys2Proof.Machine.execSlaIyD d s
  | .slaIyE d => Sys2Proof.Machine.execSlaIyE d s
  | .slaIyH d => Sys2Proof.Machine.execSlaIyH d s
  | .slaIyL d => Sys2Proof.Machine.execSlaIyL d s
  | .slaIy d => Sys2Proof.Machine.execSlaIy d s
  | .slaIyA d => Sys2Proof.Machine.execSlaIyA d s
  | .sllIyB d => Sys2Proof.Machine.execSllIyB d s
  | .sllIyC d => Sys2Proof.Machine.execSllIyC d s
  | .sllIyD d => Sys2Proof.Machine.execSllIyD d s
  | .sllIyE d => Sys2Proof.Machine.execSllIyE d s
  | .sllIyH d => Sys2Proof.Machine.execSllIyH d s
  | .sllIyL d => Sys2Proof.Machine.execSllIyL d s
  | .sllIy d => Sys2Proof.Machine.execSllIy d s
  | .sllIyA d => Sys2Proof.Machine.execSllIyA d s
  | .srlIyB d => Sys2Proof.Machine.execSrlIyB d s
  | .srlIyC d => Sys2Proof.Machine.execSrlIyC d s
  | .srlIyD d => Sys2Proof.Machine.execSrlIyD d s
  | .srlIyE d => Sys2Proof.Machine.execSrlIyE d s
  | .srlIyH d => Sys2Proof.Machine.execSrlIyH d s
  | .srlIyL d => Sys2Proof.Machine.execSrlIyL d s
  | .srlIy d => Sys2Proof.Machine.execSrlIy d s
  | .srlIyA d => Sys2Proof.Machine.execSrlIyA d s
  | .resIyB b d => Sys2Proof.Machine.execResIyB b d s
  | .resIyC b d => Sys2Proof.Machine.execResIyC b d s
  | .resIyD b d => Sys2Proof.Machine.execResIyD b d s
  | .resIyE b d => Sys2Proof.Machine.execResIyE b d s
  | .resIyH b d => Sys2Proof.Machine.execResIyH b d s
  | .resIyL b d => Sys2Proof.Machine.execResIyL b d s
  | .resIy b d => Sys2Proof.Machine.execResIy b d s
  | .resIyA b d => Sys2Proof.Machine.execResIyA b d s

end Sys2Proof.Machine
end

