-- ==== Sys2Proof/Machine/Fetch.lean ====
section
/-! DEFINITION. Fetching one instruction from the Bus: the dispatch state machine of Decode.lean run over the state, and
the placing of an instruction where the next fetch finds it. -/

namespace Sys2Proof.Machine

/-- CORE on a Bus as a source of instruction bytes: each byte is read from the Bus at pc, which advances (R15, R62);
ENTER_DD and ENTER_FD set the marker (R63). -/
def busSource {BusState : Type} (B : BusInterface BusState) : ByteSource (CoreState × BusState) BusError :=
  { next := fetchByte B, mark := fun x p => (p.1.enter x, p.2) }

/-- What the fetch of one instruction ends with. -/
inductive Fetched (σ : Type) where
  | instr (i : Instr) (s : σ)
  | unspecified (c : Context) (op : Byte)
  | failed (e : BusError)
  deriving DecidableEq, Repr

/-- From an instruction boundary to EXECUTE (R62), and the look-up in the dispatch table of the context (R60, R70). -/
def fetchInstr {BusState : Type} (B : BusInterface BusState) (admitGk : Bool) (p : CoreState × BusState) :
    Fetched (CoreState × BusState) :=
  match select (busSource B) p with
  | .error e => .failed e
  | .ok (sel, q) =>
    match lookup admitGk sel with
    | none => .unspecified sel.context sel.op
    | some i => .instr i q

/-- Places bytes at ascending addresses, without Bus calls. -/
def Bus.loadBytes (b : Bus) (a : Word) : List Byte → Bus
  | [] => b
  | v :: rest => Bus.loadBytes (b.load a v) (a + 1#16) rest

/-- A state with the bytes of a table word placed at pc. -/
def State.placeTableWord (s : State) (nbits w : Nat) : State :=
  { s with bus := s.bus.loadBytes s.pc (tableBytes nbits w) }

end Sys2Proof.Machine
end

