-- ==== Sys2Proof/Machine/Step.lean ====
section
/-! DEFINITION. One call of `step()` (R184): fetch one whole instruction, chasing all prefix bytes, and run it. -/

namespace Sys2Proof.Machine

/-- One step on the Bus given as a parameter (R41, D17), under a value of `ADMIT_GK_EXT`. Its three outcomes are those of
R184. -/
def stepOn {BusState : Type} (B : BusInterface BusState) (admitGk : Bool) (p : CoreState × BusState) :
    Host.Outcome (CoreState × BusState) Fault Refusal :=
  match fetchInstr B admitGk p with
  | .failed e => busFailed e
  | .unspecified c op => .refused (.unspecified c op)
  | .instr i q => execOn B i q

/-- One step on the Bus of `State`: `exec` runs the instruction fetched. -/
def stepWith (admitGk : Bool) (s : State) : Host.Outcome State Fault Refusal :=
  match fetchInstr Bus.interface admitGk s.split with
  | .failed e => busFailed e
  | .unspecified c op => .refused (.unspecified c op)
  | .instr i q => exec i (State.join q)

/-- One step of the machine. -/
def step (s : State) : Host.Outcome State Fault Refusal := stepWith Config.admitGkExt s

/-- The value `step()` returns to the host (R184, R199): the cost of the completed instruction; a step that does not
complete returns none. -/
def stepReturn (s : State) : Option Nat :=
  match step s with
  | .next t => some (t.cyc - s.cyc)
  | .fault _ => none
  | .refused _ => none

/-- A state with an instruction stored where `step` fetches its next instruction. -/
def State.withFetchWord (s : State) (nbits w : Nat) : State := s.placeTableWord nbits w

end Sys2Proof.Machine
end

