-- ==== Sys2Proof/Safety.lean ====
section
/-! DEFINITION. The terms in which claims about runs are stated: the invariant of the state, the contract the Bus owes
the core, the fixed cost and the operand address of an instruction, and what a run leaves alone. -/

namespace Sys2Proof.Machine

/-- A reply that is no failure. -/
def Reply.isValue : Reply → Bool
  | .value _ => true
  | .failure _ => false

/-- A backing none of whose calls ever fails. -/
def Backing.neverFails : Backing → Bool
  | .rom => true
  | .device script idle => script.all Reply.isValue && idle.isValue

/-- The contract of R42: every address answers, no call fails. -/
def Bus.neverFails (b : Bus) : Bool := b.special.all (fun e => e.2.neverFails)

/-- An address that behaves as RAM (R41, R46). -/
def Bus.isRam (b : Bus) (a : Word) : Prop := b.backing a = none

/-- `n` reads at ascending addresses, wrapping modulo 0x10000, each one Bus call: the bytes, or the first failure. -/
def readBytesOn {BusState : Type} (B : BusInterface BusState) (b : BusState) (a : Word) :
    Nat → Except BusError (List Byte × BusState)
  | 0 => .ok ([], b)
  | n + 1 =>
    match B.read b a with
    | .error e => .error e
    | .ok (v, b1) =>
      match readBytesOn B b1 (a + 1#16) n with
      | .error e => .error e
      | .ok (vs, b2) => .ok (v :: vs, b2)

/-- The same on the Bus of `State`. -/
def Bus.readBytes (b : Bus) (a : Word) (n : Nat) : Except BusError (List Byte × Bus) := readBytesOn Bus.interface b a n

/-- Any Bus with the event history of its completed calls, oldest first, kept beside its state (R46). -/
def BusInterface.recorded {BusState : Type} (B : BusInterface BusState) : BusInterface (BusState × List BusCall) :=
  { read := fun b a =>
      match B.read b.1 a with
      | .error e => .error e
      | .ok (v, b1) => .ok (v, (b1, b.2 ++ [.read a v]))
    write := fun b a v =>
      match B.write b.1 a v with
      | .error e => .error e
      | .ok b1 => .ok (b1, b.2 ++ [.write a v]) }

/-- `n` steps in a row of a given step function, up to its first stop; between two of them nothing else acts on the
state (D15, log 12). -/
def steps {σ : Type} (f : σ → Host.Outcome σ Fault Refusal) : Nat → σ → Host.Outcome σ Fault Refusal
  | 0, s => .next s
  | n + 1, s =>
    match f s with
    | .next t => steps f n t
    | .fault e => .fault e
    | .refused r => .refused r

/-- The invariant of the state at an instruction boundary: the Bus is in canonical form, and no index prefix is active
(R21). -/
structure State.Inv (s : State) : Prop where
  busWf : s.bus.wf = true
  noPrefix : s.pfx = .none

/-- What must be true before the first step (R192): a Register File with `pfx = None`, and a Bus that answers every
address. The tables are complete by construction, and the program's bytes are the claim's own hypothesis. -/
structure State.ReadyToRun (s : State) : Prop where
  noPrefix : s.pfx = .none
  busAnswers : s.bus.neverFails = true

end Sys2Proof.Machine

namespace Sys2Proof

/-- The fixed cycle cost of an operand form (R198). -/
def Shape.cost : Shape → Nat
  | .shift .rl _ _ _ => Config.costRl
  | .shift .sra _ _ _ => Config.costSra
  | .shift .rlc _ _ _ => Config.costGk
  | .shift .rrc _ _ _ => Config.costGk
  | .shift .rr _ _ _ => Config.costGk
  | .shift .sla _ _ _ => Config.costGk
  | .shift .sll _ _ _ => Config.costGk
  | .shift .srl _ _ _ => Config.costGk
  | .bit _ _ _ _ => Config.costBit
  | .res _ _ _ _ => Config.costGk
  | .set _ _ _ _ => Config.costSet

/-- The fixed cycle cost of an instruction (R105, R198). -/
def Instr.cost (i : Instr) : Nat := i.toShape.cost

/-- The effective address of an instruction (R102): its index register plus its displacement. -/
def Instr.eaOf (i : Instr) (c : Machine.CoreState) : Word :=
  Machine.resolveIndexed (c.index i.toShape.index) i.toShape.disp

/-- The effective address of an instruction in a state. -/
def Instr.ea (i : Instr) (s : Machine.State) : Word :=
  Machine.resolveIndexed (s.index i.toShape.index) i.toShape.disp

end Sys2Proof

namespace Sys2Proof.Machine

/-- The byte that a read-modify-write form computes from the byte read and the old carry; `none` for BIT, which
computes none to store (R104). -/
def storedByte : Shape → Byte → Bool → Option Byte
  | .shift .rlc _ _ _, v, cin => some (rlcFn v cin).1
  | .shift .rrc _ _ _, v, cin => some (rrcFn v cin).1
  | .shift .rl _ _ _, v, cin => some (rlFn v cin).1
  | .shift .rr _ _ _, v, cin => some (rrFn v cin).1
  | .shift .sla _ _ _, v, cin => some (slaFn v cin).1
  | .shift .sra _ _ _, v, cin => some (sraFn v cin).1
  | .shift .sll _ _ _, v, cin => some (sllFn v cin).1
  | .shift .srl _ _ _, v, cin => some (srlFn v cin).1
  | .bit _ _ _ _, _, _ => none
  | .res _ b _ _, v, _ => some (resFn b v)
  | .set _ b _ _, v, _ => some (setFn b v)

/-- The register a form copies its result into (R104); none for the memory-only forms and for BIT. -/
def copyTarget : Shape → Option Reg8
  | .shift _ _ save _ => save
  | .bit _ _ _ _ => none
  | .res _ _ save _ => save
  | .set _ _ save _ => save

/-- The state no instruction of the table touches (R11, R12, R13, R22): shadow bank, index registers, stack pointer,
interrupt state. -/
structure State.SameUntouched (s t : State) : Prop where
  shadow : t.shadow = s.shadow
  ix : t.ix = s.ix
  iy : t.iy = s.iy
  sp : t.sp = s.sp
  intState : t.intState = s.intState

/-- Two states that agree on everything an instruction may read (R10, R24): pc, IX, IY, F, the marker and the Bus. -/
structure State.SameInputs (s t : State) : Prop where
  pc : t.pc = s.pc
  ix : t.ix = s.ix
  iy : t.iy = s.iy
  pfx : t.pfx = s.pfx
  flags : t.flags = s.flags
  bus : t.bus = s.bus

/-- A bank after the copy of a computed byte (R104): one register written, or none. -/
def Bank.copied (k : Bank) (save : Option Reg8) (res : Byte) : Bank :=
  match save with
  | none => k
  | some q => k.set q res

/-- A state with IX and IY exchanged. -/
def State.swapIndex (s : State) : State := { s with ix := s.iy, iy := s.ix }

/-- One instruction run `n` times in a row, without fetches. -/
def execTimes : Nat → Instr → State → Host.Outcome State Fault Refusal
  | 0, _, s => .next s
  | n + 1, i, s =>
    match exec i s with
    | .next t => execTimes n i t
    | .fault f => .fault f
    | .refused r => .refused r

end Sys2Proof.Machine
end

