-- ==== Sys2Proof/Certificates/Slice0/Obligations.lean ====
section
/-! DEFINITION. The statements for the provers. Where a statement says ea, it is the effective address of the state before
the instruction; `Instr.toShape` is the operand form of a row (operation, index register, bit number, copy register,
displacement), so a hypothesis on it names rows and shuts out none of them. -/

open Sys2Proof Sys2Proof.Machine

/-- For every value of ADMIT_GK_EXT, every instruction admitted under it, with every operand, and any bytes after it:
the decoder reads from its four encoded bytes exactly that instruction and leaves the bytes after it. The numbers
are the default of ENC (log 5). (R65, R66, R67, 44_gk_indexed_bit_remainder.md) -/
def Obligations.EncodeThenDecode : Prop :=
  ∀ (admitGk : Bool) (i : Instr) (rest : List Byte), i.wf admitGk = true →
    decodeWith admitGk (encode i ++ rest) = .instr i rest

/-- If the decoder reads an instruction from some bytes, that instruction is admitted and the bytes are its four encoded
bytes followed by the rest: no other byte sequence decodes to it. The numbers are the default of ENC (log 5). (R65,
R67, R70) -/
def Obligations.DecodeThenEncode : Prop :=
  ∀ (admitGk : Bool) (i : Instr) (bytes rest : List Byte), decodeWith admitGk bytes = .instr i rest →
    i.wf admitGk = true ∧ bytes = encode i ++ rest

/-- Tables none, CB, ED, DD, FD refuse every opcode byte that reaches them, by context and opcode; tables DD-CB and FD-
CB refuse, without ADMIT_GK_EXT, exactly 0x00..0x0F, 0x18..0x27, 0x30..0x3F, 0x80..0xBF, and with it nothing. A byte
after DD or FD other than 0xCB, a second index byte among them, is an opcode of that table (D24). Refusing them is
the model's choice (log 15, D2: the real core executes something); the byte values 0xCB, 0xED, 0xDD, 0xFD and the
opcode ranges are the default of ENC, general knowledge (log 5, D3, D4). (R61, R62, R70, R71) -/
def Obligations.RefusedSpaceExact : Prop :=
  (∀ (g : Bool) (op : Byte) (rest : List Byte), op ≠ 0xCB#8 → op ≠ 0xED#8 → op ≠ 0xDD#8 → op ≠ 0xFD#8 →
      decodeWith g (op :: rest) = .unspecified .none op rest) ∧
    (∀ (g : Bool) (op : Byte) (rest : List Byte), decodeWith g (0xCB#8 :: op :: rest) = .unspecified .cb op rest) ∧
    (∀ (g : Bool) (op : Byte) (rest : List Byte), decodeWith g (0xED#8 :: op :: rest) = .unspecified .ed op rest) ∧
    (∀ (g : Bool) (op : Byte) (rest : List Byte), op ≠ 0xCB#8 →
      decodeWith g (0xDD#8 :: op :: rest) = .unspecified .dd op rest ∧
      decodeWith g (0xFD#8 :: op :: rest) = .unspecified .fd op rest) ∧
    (∀ (d op : Byte) (rest : List Byte),
      (decodeWith false (0xDD#8 :: 0xCB#8 :: d :: op :: rest) = .unspecified .ddcb op rest ↔
        (op.toNat < 0x10 ∨ 0x18 ≤ op.toNat ∧ op.toNat < 0x28 ∨ 0x30 ≤ op.toNat ∧ op.toNat < 0x40 ∨
          0x80 ≤ op.toNat ∧ op.toNat < 0xC0)) ∧
      (decodeWith false (0xFD#8 :: 0xCB#8 :: d :: op :: rest) = .unspecified .fdcb op rest ↔
        (op.toNat < 0x10 ∨ 0x18 ≤ op.toNat ∧ op.toNat < 0x28 ∨ 0x30 ≤ op.toNat ∧ op.toNat < 0x40 ∨
          0x80 ≤ op.toNat ∧ op.toNat < 0xC0))) ∧
    (∀ (d op : Byte) (rest : List Byte),
      (∃ i, decodeWith true (0xDD#8 :: 0xCB#8 :: d :: op :: rest) = .instr i rest) ∧
      (∃ i, decodeWith true (0xFD#8 :: 0xCB#8 :: d :: op :: rest) = .instr i rest))

/-- One word of each of the eleven families of files 41 to 44 for each index register, written out by hand, decodes to
its instruction; every refused row of 95_test_vectors.md section 2.7 is refused by name, the last two of them (DD CB
00 06, FD CB 00 86) when ADMIT_GK_EXT is false and read as RLC and RES when it is true. decode has it true, against
the default of the spec, and the families of file 44 are general knowledge (log 3); every byte value is the default
of ENC, general knowledge (log 5); refusing is the choice of log 15. (95_test_vectors.md section 2.7, R67, R70) -/
def Obligations.SampleWordsDecode : Prop :=
  decode [0xDD#8, 0xCB#8, 0x10#8, 0x46#8] = .instr (.bitIx 0#3 0x10#8 6#3) [] ∧
    decode [0xFD#8, 0xCB#8, 0x10#8, 0x46#8] = .instr (.bitIy 0#3 0x10#8 6#3) [] ∧
    decode [0xDD#8, 0xCB#8, 0x80#8, 0x16#8] = .instr (.rlIx 0x80#8) [] ∧
    decode [0xFD#8, 0xCB#8, 0xFE#8, 0x11#8] = .instr (.rlIyC 0xFE#8) [] ∧
    decode [0xDD#8, 0xCB#8, 0x7F#8, 0x28#8] = .instr (.sraIxB 0x7F#8) [] ∧
    decode [0xFD#8, 0xCB#8, 0xFF#8, 0x2F#8] = .instr (.sraIyA 0xFF#8) [] ∧
    decode [0xDD#8, 0xCB#8, 0x00#8, 0xC0#8] = .instr (.setIxB 0#3 0x00#8) [] ∧
    decode [0xFD#8, 0xCB#8, 0x81#8, 0xFE#8] = .instr (.setIy 7#3 0x81#8) [] ∧
    decode [0xDD#8, 0xCB#8, 0x00#8, 0x06#8] = .instr (.rlcIx 0x00#8) [] ∧
    decode [0xFD#8, 0xCB#8, 0x05#8, 0x07#8] = .instr (.rlcIyA 0x05#8) [] ∧
    decode [0xDD#8, 0xCB#8, 0x00#8, 0x0E#8] = .instr (.rrcIx 0x00#8) [] ∧
    decode [0xFD#8, 0xCB#8, 0x05#8, 0x09#8] = .instr (.rrcIyC 0x05#8) [] ∧
    decode [0xDD#8, 0xCB#8, 0x00#8, 0x1E#8] = .instr (.rrIx 0x00#8) [] ∧
    decode [0xFD#8, 0xCB#8, 0x05#8, 0x1A#8] = .instr (.rrIyD 0x05#8) [] ∧
    decode [0xDD#8, 0xCB#8, 0x00#8, 0x26#8] = .instr (.slaIx 0x00#8) [] ∧
    decode [0xFD#8, 0xCB#8, 0x05#8, 0x23#8] = .instr (.slaIyE 0x05#8) [] ∧
    decode [0xDD#8, 0xCB#8, 0x00#8, 0x36#8] = .instr (.sllIx 0x00#8) [] ∧
    decode [0xFD#8, 0xCB#8, 0x05#8, 0x34#8] = .instr (.sllIyH 0x05#8) [] ∧
    decode [0xDD#8, 0xCB#8, 0x00#8, 0x3E#8] = .instr (.srlIx 0x00#8) [] ∧
    decode [0xFD#8, 0xCB#8, 0x05#8, 0x3D#8] = .instr (.srlIyL 0x05#8) [] ∧
    decode [0xDD#8, 0xCB#8, 0x00#8, 0xBF#8] = .instr (.resIxA 7#3 0x00#8) [] ∧
    decode [0xFD#8, 0xCB#8, 0x00#8, 0x86#8] = .instr (.resIy 0#3 0x00#8) [] ∧
    decode [0x00#8] = .unspecified .none 0x00#8 [] ∧
    decode [0xCB#8, 0x16#8] = .unspecified .cb 0x16#8 [] ∧
    decode [0xED#8, 0x44#8] = .unspecified .ed 0x44#8 [] ∧
    decode [0xDD#8, 0x21#8] = .unspecified .dd 0x21#8 [] ∧
    decode [0xDD#8, 0xDD#8, 0xCB#8, 0x00#8, 0x46#8] = .unspecified .dd 0xDD#8 [0xCB#8, 0x00#8, 0x46#8] ∧
    decodeWith false [0xDD#8, 0xCB#8, 0x00#8, 0x06#8] = .unspecified .ddcb 0x06#8 [] ∧
    decodeWith true [0xDD#8, 0xCB#8, 0x00#8, 0x06#8] = .instr (.rlcIx 0x00#8) [] ∧
    decodeWith false [0xFD#8, 0xCB#8, 0x00#8, 0x86#8] = .unspecified .fdcb 0x86#8 [] ∧
    decodeWith true [0xFD#8, 0xCB#8, 0x00#8, 0x86#8] = .instr (.resIy 0#3 0x00#8) []

/-- For every displacement and opcode byte: the instruction of table FD-CB run with IX and IY exchanged does what the
instruction of table DD-CB does, with IX and IY exchanged; it faults alike. (R75, R113) -/
def Obligations.TablesShareHandlers : Prop :=
  ∀ (d op : Byte) (s : State),
    (∀ t, exec (Instr.ofShape (shapeOfOpcode .ix d op)) s = .next t →
      exec (Instr.ofShape (shapeOfOpcode .iy d op)) s.swapIndex = .next t.swapIndex) ∧
    (∀ f, exec (Instr.ofShape (shapeOfOpcode .ix d op)) s = .fault f →
      exec (Instr.ofShape (shapeOfOpcode .iy d op)) s.swapIndex = .fault f)

/-- If the Bus answers four reads from pc on and the bytes decode to an instruction, a step is that instruction on the
state with pc advanced by 4 modulo 0x10000, the marker set to its index register, and the Bus as the four reads left
it. That pc advances by the bytes fetched is log 18 (DEDUCED, D10). (R15, R62, R184) -/
def Obligations.StepRunsDecoded : Prop :=
  ∀ (admitGk : Bool) (s : State) (bytes : List Byte) (b4 : Bus) (i : Instr),
    s.bus.readBytes s.pc 4 = .ok (bytes, b4) → decodeWith admitGk bytes = .instr i [] →
    stepWith admitGk s = exec i { s with pc := s.pc + 4#16, pfx := i.toShape.index.marker, bus := b4 }

/-- If the Bus answers the reads of the bytes that lead to a (context, opcode) pair without a contract, the step is
refused as Unspecified(ctx, op), never run as a no-op. The refusal is the model's choice (log 15, D2: the real core
executes something). (R70, R62, R184) -/
def Obligations.StepRefusesUnspecified : Prop :=
  ∀ (admitGk : Bool) (s : State) (n : Nat) (bytes : List Byte) (b : Bus) (c : Context) (op : Byte),
    s.bus.readBytes s.pc n = .ok (bytes, b) → decodeWith admitGk bytes = .unspecified c op [] →
    stepWith admitGk s = .refused (.unspecified c op)

/-- If the first n bytes at pc are answered, are not yet a whole instruction, and the next read fails, the step ends in
BusFailure carrying exactly what the Bus surfaced. (R50, R173) -/
def Obligations.FetchFailureEndsStep : Prop :=
  ∀ (admitGk : Bool) (s : State) (n : Nat) (bytes : List Byte) (b : Bus) (e : BusError),
    s.bus.readBytes s.pc n = .ok (bytes, b) → decodeWith admitGk bytes = .truncated →
    b.read (s.pc + BitVec.ofNat 16 n) = .error e → stepWith admitGk s = .fault (.busFailure e)

/-- For every instruction: if its read of ea fails, it ends in BusFailure with that failure; if the read is answered and
the form stores a byte and that write fails, it ends in BusFailure with that failure. (R50, R173) -/
def Obligations.OperandFailureEndsInstruction : Prop :=
  ∀ (i : Instr) (s : State),
    (∀ e, s.bus.read (i.ea s) = .error e → exec i s = .fault (.busFailure e)) ∧
    (∀ v b1 w e, s.bus.read (i.ea s) = .ok (v, b1) → storedByte i.toShape v (s.flag .c) = some w →
      b1.write (i.ea s) w = .error e → exec i s = .fault (.busFailure e))

/-- No instruction is refused; if one faults, the fault is BusFailure and it is the failure of its read of ea, or, that
read answered, of its write of ea. (R69, R170, R173) -/
def Obligations.InstructionsFaultOnlyOnBusFailure : Prop :=
  ∀ (i : Instr) (s : State),
    (∀ r, exec i s ≠ .refused r) ∧
    (∀ f, exec i s = .fault f → ∃ e, f = .busFailure e ∧
      (s.bus.read (i.ea s) = .error e ∨
        ∃ v b1 w, s.bus.read (i.ea s) = .ok (v, b1) ∧ storedByte i.toShape v (s.flag .c) = some w ∧
          b1.write (i.ea s) w = .error e))

/-- For every instruction, every operand and every state whose Bus keeps its contract (no call fails): the instruction
answers a next state; its fixed cost is added to cyc, the marker is cleared, pc is as it was, and the Bus still
keeps its contract. (R69, R105, R170, R198) -/
def Obligations.EveryInstructionCompletes : Prop :=
  ∀ (i : Instr) (s : State), s.bus.neverFails = true →
    ∃ t, exec i s = .next t ∧ t.cyc = s.cyc + i.cost ∧ t.pfx = .none ∧ t.pc = s.pc ∧ t.bus.neverFails = true

/-- If no Bus call can fail, a step is either a next state whose Bus again cannot fail, or the refusal Unspecified; it
is never a fault. (R42, R170, R184) -/
def Obligations.AnsweringBusNeverFaults : Prop :=
  ∀ (admitGk : Bool) (s : State), s.bus.neverFails = true →
    (∃ t, stepWith admitGk s = .next t ∧ t.bus.neverFails = true) ∨
    (∃ c op, stepWith admitGk s = .refused (.unspecified c op))

/-- If a step completes, the event history grows by exactly: the reads of the four instruction bytes at pc, pc+1, pc+2,
pc+3 modulo 0x10000, which are the encoding of the instruction run; the read of its effective address; and, for the
forms that store, the write of the computed byte there. Order and count are the decision D11 (log 18). (R46, R50,
R51) -/
def Obligations.StepBusCallsInOrder : Prop :=
  ∀ (admitGk : Bool) (s t : State), stepWith admitGk s = .next t →
    ∃ (i : Instr) (b0 b1 b2 b3 v : Byte), encode i = [b0, b1, b2, b3] ∧ i.wf admitGk = true ∧
      t.bus.calls = s.bus.calls ++
        [.read s.pc b0, .read (s.pc + 1#16) b1, .read (s.pc + 2#16) b2, .read (s.pc + 3#16) b3, .read (i.ea s) v] ++
        (match storedByte i.toShape v (s.flag .c) with
          | none => []
          | some w => [.write (i.ea s) w])

/-- From every state with the invariant (canonical memory, canonical list of special addresses, pfx = None), under
either value of ADMIT_GK_EXT, a completed step gives a state with the invariant. (R21, R63, R195, 20_memory.md) -/
def Obligations.StepKeepsInvariant : Prop :=
  ∀ (admitGk : Bool) (s t : State), s.Inv → stepWith admitGk s = .next t → t.Inv

/-- State.reset is canonical and has no active prefix. Its register values are the model's choice (log 1); the invariant
does not depend on them. (R28, R190) -/
def Obligations.ResetSatisfiesInvariant : Prop :=
  State.reset.Inv

/-- For every INIT and every Bus, the created state holds the values of INIT, pfx = None and cyc = 0, it is ready to run
if the Bus keeps its contract, and State.reset is one such state (log 1). (R28, R190, R192) -/
def Obligations.CreationFollowsInit : Prop :=
  (∀ (init : Init) (bus : Bus),
      (State.create init bus).regs = init.regs ∧ (State.create init bus).shadow = init.shadow ∧
      (State.create init bus).ix = init.ix ∧ (State.create init bus).iy = init.iy ∧
      (State.create init bus).sp = init.sp ∧ (State.create init bus).pc = init.pc ∧
      (State.create init bus).intState = init.intState ∧ (State.create init bus).pfx = .none ∧
      (State.create init bus).cyc = 0 ∧ (State.create init bus).bus = bus ∧
      (bus.neverFails = true → (State.create init bus).ReadyToRun)) ∧
    State.reset = State.create .chosen .flatRam ∧ State.reset.ReadyToRun

/-- If a step completes, pc has advanced by 4 modulo 0x10000 from any pc, aligned or not, and pfx is None whatever it
was before. That pc advances by the bytes fetched is the reading of D10 (log 18, DEDUCED, unsafe). (R15, R63, R65) -/
def Obligations.StepAdvancesPcAndClearsMarker : Prop :=
  ∀ (admitGk : Bool) (s t : State), stepWith admitGk s = .next t → t.pc = s.pc + 4#16 ∧ t.pfx = .none

/-- If the bytes at pc decode to i and the step completes, cyc grows by the cost of i and step() returns that cost, the
same whatever the data; a step that faults or is refused returns no cost. (R199) -/
def Obligations.StepReturnsCost : Prop :=
  (∀ (s t : State) (bytes : List Byte) (b4 : Bus) (i : Instr),
      s.bus.readBytes s.pc 4 = .ok (bytes, b4) → decode bytes = .instr i [] → step s = .next t →
      t.cyc = s.cyc + i.cost ∧ stepReturn s = some i.cost) ∧
    (∀ (s : State) (f : Fault), step s = .fault f → stepReturn s = none) ∧
    (∀ (s : State) (r : Refusal), step s = .refused r → stepReturn s = none)

/-- BIT costs 20, SRA and SET cost 23 in every form, RL costs COST_RL in every form, whose value 23 is the default of D9
(log 6), and the instructions of file 44 cost 23 (log 6). (70_reset_and_hazards.md R198) -/
def Obligations.CostTable : Prop :=
  (∀ x b r d, (Instr.ofShape (.bit x b r d)).cost = 20) ∧
    (∀ x save d, (Instr.ofShape (.shift .sra x save d)).cost = 23) ∧
    (∀ x b save d, (Instr.ofShape (.set x b save d)).cost = 23) ∧
    (∀ x save d, (Instr.ofShape (.shift .rl x save d)).cost = Config.costRl) ∧ Config.costRl = 23 ∧
    (∀ k x save d, (Instr.ofShape (.shift k x save d)).cost = 23) ∧
    (∀ x b save d, (Instr.ofShape (.res x b save d)).cost = 23)

/-- A completed step leaves all eight shadow registers, both index registers, SP and intState as they were. (R11, R12,
R13, R22) -/
def Obligations.StepLeavesTheRestAlone : Prop :=
  ∀ (admitGk : Bool) (s t : State), stepWith admitGk s = .next t → s.SameUntouched t

/-- Two states that agree on pc, IX, IY, the marker, F and the Bus, and differ in anything else, run alike for any
number of steps: if one run completes so does the other, they again agree on all of those, and they have consumed
the same cycles. A claim on several steps assumes a host that leaves the state alone between them (log 12, D15).
(R10, R24, R26) -/
def Obligations.RunsReadNoGeneralRegister : Prop :=
  ∀ (n : Nat) (s s' t : State), s.SameInputs s' → Host.Core.run Sys2Proof.core n s = .next t →
    ∃ t' : State, Host.Core.run Sys2Proof.core n s' = .next t' ∧ t.SameInputs t' ∧ t'.cyc + s.cyc = t.cyc + s'.cyc

/-- If n steps complete from any state, pc has advanced by 4n modulo 0x10000, cyc by at least 20n and at most 23n (the
upper bound rests on the default costs, log 6), shadow bank, IX, IY, SP and intState are as they were, and the event
history has grown by 5 to 6 calls a step. That pc advances by the bytes fetched and the count of calls are log 18
(DEDUCED, D10, D11), and a claim on several steps assumes a host that leaves the state alone between them (log 12,
D15). (R15, R50, R76, R194, R198, R199) -/
def Obligations.RunsAdvanceSteadily : Prop :=
  ∀ (n : Nat) (s t : State), Host.Core.run Sys2Proof.core n s = .next t →
    t.pc = s.pc + BitVec.ofNat 16 (4 * n) ∧ s.cyc + 20 * n ≤ t.cyc ∧ t.cyc ≤ s.cyc + 23 * n ∧ s.SameUntouched t ∧
    ∃ l, t.bus.calls = s.bus.calls ++ l ∧ 5 * n ≤ l.length ∧ l.length ≤ 6 * n

/-- If a 32-bit table word decodes to an instruction, then on the state with that word placed at pc the Bus answers the
four instruction bytes and the step is that instruction. Placing a program is the host's file loader, which the
model stands in for (log 13). That pc advances by the bytes fetched is log 18 (DEDUCED, D10). (R65, R192) -/
def Obligations.PlacedWordIsTheNextInstruction : Prop :=
  ∀ (s : State) (w : Nat) (i : Instr), decodeTableWord 32 w = some i →
    ∃ b4, (s.withFetchWord 32 w).bus.readBytes s.pc 4 = .ok (tableBytes 32 w, b4) ∧
      step (s.withFetchWord 32 w) = exec i { s with pc := s.pc + 4#16, pfx := i.toShape.index.marker, bus := b4 }

/-- For both rows of BIT, every b, d and r, and every state whose Bus answers the read of ea: t is v masked to bit b; F
becomes S, Z, P/V of t, H = 1, X5 and X3 from ea, C as it was, N = 0; cyc grows by the cost, the marker is cleared,
the Bus is as the one read left it, and nothing else changes. N = 0 and no copy for any r are the readings D7 and D8
(log 17). (R100, R112, R113) -/
def Obligations.BitResult : Prop :=
  ∀ (i : Instr) (x : Index) (b r : BitVec 3) (d : Byte) (s : State) (v t f : Byte) (ea : Word) (b1 : Bus),
    i.toShape = .bit x b r d → ea = resolveIndexed (s.index x) d → s.bus.read ea = .ok (v, b1) →
    t = v &&& (1#8 <<< b.toNat) →
    f = signCheck t ||| zeroCheck t ||| parity t ||| Config.flagMask .h ||| x5Check16 ea ||| x3Check16 ea |||
      (s.regs.f &&& Config.flagMask .c) →
    exec i s = .next { s with
      regs := { s.regs with f := f }
      pfx := .none
      cyc := s.cyc + Config.costBit
      bus := b1 }

/-- For the sixteen rows of RL and every state whose Bus answers the read and the write of ea: the result is the byte
shifted left with the old carry at bit 0, it is written back and copied into the named register if any, F becomes
szp53 of the result and old bit 7 as carry with H = N = 0, cyc grows by COST_RL, the marker is cleared, and nothing
else changes. (R122) -/
def Obligations.RlResult : Prop :=
  ∀ (i : Instr) (x : Index) (save : Option Reg8) (d : Byte) (s : State) (v res : Byte) (b1 b2 : Bus),
    i.toShape = .shift .rl x save d → s.bus.read (resolveIndexed (s.index x) d) = .ok (v, b1) →
    res = (v <<< 1) ||| (if s.flag .c then 1#8 else 0#8) → b1.write (resolveIndexed (s.index x) d) res = .ok b2 →
    exec i s = .next { s with
      regs := { s.regs.copied save res with f := szp53 res ||| carry (v.getLsbD 7) }
      pfx := .none
      cyc := s.cyc + Config.costRl
      bus := b2 }

/-- For the sixteen rows of SRA and every state whose Bus answers the read and the write of ea: the result is the byte
shifted right with bit 7 kept, it is written back and copied, F becomes szp53 of the result and old bit 0 as carry
with H = N = 0, the cost is added, the marker is cleared, and nothing else changes. (R124) -/
def Obligations.SraResult : Prop :=
  ∀ (i : Instr) (x : Index) (save : Option Reg8) (d : Byte) (s : State) (v res : Byte) (b1 b2 : Bus),
    i.toShape = .shift .sra x save d → s.bus.read (resolveIndexed (s.index x) d) = .ok (v, b1) →
    res = (v >>> 1) ||| (v &&& 0x80#8) → b1.write (resolveIndexed (s.index x) d) res = .ok b2 →
    exec i s = .next { s with
      regs := { s.regs.copied save res with f := szp53 res ||| carry (v.getLsbD 0) }
      pfx := .none
      cyc := s.cyc + Config.costSra
      bus := b2 }

/-- For the sixteen rows of SET, every b, and every state whose Bus answers the read and the write of ea: bit b of the
byte is set, the result is written back and copied as a whole byte, no flag changes, the cost is added, the marker
is cleared, and nothing else changes. (R132) -/
def Obligations.SetResult : Prop :=
  ∀ (i : Instr) (x : Index) (b : BitVec 3) (save : Option Reg8) (d : Byte) (s : State) (v res : Byte) (b1 b2 : Bus),
    i.toShape = .set x b save d → s.bus.read (resolveIndexed (s.index x) d) = .ok (v, b1) →
    res = v ||| (1#8 <<< b.toNat) → b1.write (resolveIndexed (s.index x) d) res = .ok b2 →
    exec i s = .next { s with
      regs := s.regs.copied save res
      pfx := .none
      cyc := s.cyc + Config.costSet
      bus := b2 }

/-- For the sixteen rows of RLC and every state whose Bus answers the read and the write of ea: the result is the byte
rotated left, bit 7 into bit 0, written back and copied; F becomes szp53 of the result and old bit 7 as carry with H
= N = 0; the cost is added, the marker cleared, nothing else changes. Model choice, log 3: file 44 is general
knowledge. (44_gk_indexed_bit_remainder.md R141, 44_gk_indexed_bit_remainder.md R140) -/
def Obligations.RlcResult : Prop :=
  ∀ (i : Instr) (x : Index) (save : Option Reg8) (d : Byte) (s : State) (v res : Byte) (b1 b2 : Bus),
    i.toShape = .shift .rlc x save d → s.bus.read (resolveIndexed (s.index x) d) = .ok (v, b1) →
    res = (v <<< 1) ||| (if v.getLsbD 7 then 1#8 else 0#8) → b1.write (resolveIndexed (s.index x) d) res = .ok b2 →
    exec i s = .next { s with
      regs := { s.regs.copied save res with f := szp53 res ||| carry (v.getLsbD 7) }
      pfx := .none
      cyc := s.cyc + Config.costGk
      bus := b2 }

/-- For the sixteen rows of RRC and every state whose Bus answers the read and the write of ea: the result is the byte
rotated right, bit 0 into bit 7, written back and copied; F becomes szp53 of the result and old bit 0 as carry with
H = N = 0; the cost is added, the marker cleared, nothing else changes. Model choice, log 3: file 44 is general
knowledge. (44_gk_indexed_bit_remainder.md R142, 44_gk_indexed_bit_remainder.md R140) -/
def Obligations.RrcResult : Prop :=
  ∀ (i : Instr) (x : Index) (save : Option Reg8) (d : Byte) (s : State) (v res : Byte) (b1 b2 : Bus),
    i.toShape = .shift .rrc x save d → s.bus.read (resolveIndexed (s.index x) d) = .ok (v, b1) →
    res = (v >>> 1) ||| (if v.getLsbD 0 then 0x80#8 else 0#8) → b1.write (resolveIndexed (s.index x) d) res = .ok b2 →
    exec i s = .next { s with
      regs := { s.regs.copied save res with f := szp53 res ||| carry (v.getLsbD 0) }
      pfx := .none
      cyc := s.cyc + Config.costGk
      bus := b2 }

/-- For the sixteen rows of RR and every state whose Bus answers the read and the write of ea: the result is the byte
shifted right with the old carry at bit 7, written back and copied; F becomes szp53 of the result and old bit 0 as
carry with H = N = 0; the cost is added, the marker cleared, nothing else changes. Model choice, log 3: file 44 is
general knowledge. (44_gk_indexed_bit_remainder.md R143, 44_gk_indexed_bit_remainder.md R140) -/
def Obligations.RrResult : Prop :=
  ∀ (i : Instr) (x : Index) (save : Option Reg8) (d : Byte) (s : State) (v res : Byte) (b1 b2 : Bus),
    i.toShape = .shift .rr x save d → s.bus.read (resolveIndexed (s.index x) d) = .ok (v, b1) →
    res = (v >>> 1) ||| (if s.flag .c then 0x80#8 else 0#8) → b1.write (resolveIndexed (s.index x) d) res = .ok b2 →
    exec i s = .next { s with
      regs := { s.regs.copied save res with f := szp53 res ||| carry (v.getLsbD 0) }
      pfx := .none
      cyc := s.cyc + Config.costGk
      bus := b2 }

/-- For the sixteen rows of SLA and every state whose Bus answers the read and the write of ea: the result is the byte
shifted left, 0 into bit 0, written back and copied; F becomes szp53 of the result and old bit 7 as carry with H = N
= 0; the cost is added, the marker cleared, nothing else changes. Model choice, log 3: file 44 is general knowledge.
(44_gk_indexed_bit_remainder.md R144, 44_gk_indexed_bit_remainder.md R140) -/
def Obligations.SlaResult : Prop :=
  ∀ (i : Instr) (x : Index) (save : Option Reg8) (d : Byte) (s : State) (v res : Byte) (b1 b2 : Bus),
    i.toShape = .shift .sla x save d → s.bus.read (resolveIndexed (s.index x) d) = .ok (v, b1) →
    res = v <<< 1 → b1.write (resolveIndexed (s.index x) d) res = .ok b2 →
    exec i s = .next { s with
      regs := { s.regs.copied save res with f := szp53 res ||| carry (v.getLsbD 7) }
      pfx := .none
      cyc := s.cyc + Config.costGk
      bus := b2 }

/-- For the sixteen rows of SLL and every state whose Bus answers the read and the write of ea: the result is the byte
shifted left, 1 into bit 0, written back and copied; F becomes szp53 of the result and old bit 7 as carry with H = N
= 0; the cost is added, the marker cleared, nothing else changes. Model choice, log 3: file 44 is general knowledge.
(44_gk_indexed_bit_remainder.md R145, 44_gk_indexed_bit_remainder.md R140) -/
def Obligations.SllResult : Prop :=
  ∀ (i : Instr) (x : Index) (save : Option Reg8) (d : Byte) (s : State) (v res : Byte) (b1 b2 : Bus),
    i.toShape = .shift .sll x save d → s.bus.read (resolveIndexed (s.index x) d) = .ok (v, b1) →
    res = (v <<< 1) ||| 1#8 → b1.write (resolveIndexed (s.index x) d) res = .ok b2 →
    exec i s = .next { s with
      regs := { s.regs.copied save res with f := szp53 res ||| carry (v.getLsbD 7) }
      pfx := .none
      cyc := s.cyc + Config.costGk
      bus := b2 }

/-- For the sixteen rows of SRL and every state whose Bus answers the read and the write of ea: the result is the byte
shifted right, 0 into bit 7, written back and copied; F becomes szp53 of the result and old bit 0 as carry with H =
N = 0; the cost is added, the marker cleared, nothing else changes. Model choice, log 3: file 44 is general
knowledge. (44_gk_indexed_bit_remainder.md R146, 44_gk_indexed_bit_remainder.md R140) -/
def Obligations.SrlResult : Prop :=
  ∀ (i : Instr) (x : Index) (save : Option Reg8) (d : Byte) (s : State) (v res : Byte) (b1 b2 : Bus),
    i.toShape = .shift .srl x save d → s.bus.read (resolveIndexed (s.index x) d) = .ok (v, b1) →
    res = v >>> 1 → b1.write (resolveIndexed (s.index x) d) res = .ok b2 →
    exec i s = .next { s with
      regs := { s.regs.copied save res with f := szp53 res ||| carry (v.getLsbD 0) }
      pfx := .none
      cyc := s.cyc + Config.costGk
      bus := b2 }

/-- For the sixteen rows of RES, every b, and every state whose Bus answers the read and the write of ea: bit b of the
byte is cleared, the result is written back and copied as a whole byte, no flag changes, the cost is added, the
marker cleared, nothing else changes. Model choice, log 3: file 44 is general knowledge.
(44_gk_indexed_bit_remainder.md R147) -/
def Obligations.ResResult : Prop :=
  ∀ (i : Instr) (x : Index) (b : BitVec 3) (save : Option Reg8) (d : Byte) (s : State) (v res : Byte) (b1 b2 : Bus),
    i.toShape = .res x b save d → s.bus.read (resolveIndexed (s.index x) d) = .ok (v, b1) →
    res = v &&& ~~~(1#8 <<< b.toNat) → b1.write (resolveIndexed (s.index x) d) res = .ok b2 →
    exec i s = .next { s with
      regs := s.regs.copied save res
      pfx := .none
      cyc := s.cyc + Config.costGk
      bus := b2 }

/-- After BIT: Z is the complement of bit b of the byte read; S is that bit if b = 7 and 0 otherwise; P/V equals Z; H is
1; N is 0 (D7, log 17); C is as it was; X5 and X3 are bits 13 and 11 of the effective address. (R17, R19, R95, R112) -/
def Obligations.BitFlagsByName : Prop :=
  ∀ (i : Instr) (x : Index) (b r : BitVec 3) (d : Byte) (s t : State) (v : Byte) (b1 : Bus),
    i.toShape = .bit x b r d → s.bus.read (i.ea s) = .ok (v, b1) → exec i s = .next t →
    t.flag .z = !(v.getLsbD b.toNat) ∧ t.flag .s = (decide (b = 7#3) && v.getLsbD 7) ∧
    t.flag .pv = !(v.getLsbD b.toNat) ∧ t.flag .h = true ∧ t.flag .n = false ∧ t.flag .c = s.flag .c ∧
    t.flag .x5 = (i.ea s).getLsbD 13 ∧ t.flag .x3 = (i.ea s).getLsbD 11

/-- After any of the eight rotates and shifts, with res the byte it stores: S is bit 7 of res, Z says res is 0, P/V says
res has an even number of 1-bits, X5 and X3 are bits 5 and 3 of res, H and N are 0, and C is old bit 7 for the left
forms (RLC, RL, SLA, SLL) and old bit 0 for the right forms. RLC, RRC, RR, SLA, SLL, SRL are model choices (log 3).
(R17, R19, R101, R120, R140) -/
def Obligations.ShiftFlagsByName : Prop :=
  ∀ (i : Instr) (k : ShiftKind) (x : Index) (save : Option Reg8) (d : Byte) (s t : State) (v res : Byte) (b1 : Bus),
    i.toShape = .shift k x save d → s.bus.read (i.ea s) = .ok (v, b1) →
    storedByte i.toShape v (s.flag .c) = some res → exec i s = .next t →
    t.flag .s = res.getLsbD 7 ∧ t.flag .z = decide (res = 0#8) ∧ t.flag .pv = decide (popcount res % 2 = 0) ∧
    t.flag .x5 = res.getLsbD 5 ∧ t.flag .x3 = res.getLsbD 3 ∧ t.flag .h = false ∧ t.flag .n = false ∧
    t.flag .c = (match k with
      | .rlc | .rl | .sla | .sll => v.getLsbD 7
      | .rrc | .rr | .sra | .srl => v.getLsbD 0)

/-- After either row of BIT: A to L, the shadow bank, IX, IY, SP, pc and intState are as they were, for all eight r (D8,
log 17), and every byte of memory reads as before; the event history grows by its one read. (R24, R112, R50) -/
def Obligations.BitFrame : Prop :=
  ∀ (i : Instr) (x : Index) (b r : BitVec 3) (d : Byte) (s t : State), i.toShape = .bit x b r d → exec i s = .next t →
    (∀ q, t.reg q = s.reg q) ∧ s.SameUntouched t ∧ t.pc = s.pc ∧ (∀ a, t.bus.peek a = s.bus.peek a) ∧
    (∀ a, a ≠ i.ea s → t.bus.backing a = s.bus.backing a) ∧
    ∃ v, t.bus.calls = s.bus.calls ++ [.read (i.ea s) v]

/-- After any row of RLC, RRC, RL, RR, SLA, SRA, SLL, SRL: every general register but the copy target, the shadow bank,
IX, IY, SP, pc and intState are as they were, and every byte of memory outside the effective address of the state
before reads as before. RLC, RRC, RR, SLA, SLL, SRL, rule R140 among them, are general knowledge (log 3). (R24,
R120, R122, R124, R140) -/
def Obligations.RotateShiftFrame : Prop :=
  ∀ (i : Instr) (k : ShiftKind) (x : Index) (save : Option Reg8) (d : Byte) (s t : State),
    i.toShape = .shift k x save d → exec i s = .next t →
    (∀ q, save ≠ some q → t.reg q = s.reg q) ∧ s.SameUntouched t ∧ t.pc = s.pc ∧
    (∀ a, a ≠ resolveIndexed (s.index x) d → t.bus.peek a = s.bus.peek a ∧ t.bus.backing a = s.bus.backing a)

/-- After any row of SET or RES: F is as it was, all eight bits; every general register but the copy target, the shadow
bank, IX, IY, SP, pc and intState are as they were; and every byte of memory outside the effective address of the
state before reads as before. RES, rule R147, is general knowledge (log 3). (R24, R132, R147) -/
def Obligations.SetResFrame : Prop :=
  ∀ (i : Instr) (x : Index) (b : BitVec 3) (save : Option Reg8) (d : Byte) (s t : State),
    (i.toShape = .set x b save d ∨ i.toShape = .res x b save d) → exec i s = .next t →
    t.flags = s.flags ∧ (∀ q, save ≠ some q → t.reg q = s.reg q) ∧ s.SameUntouched t ∧ t.pc = s.pc ∧
    (∀ a, a ≠ resolveIndexed (s.index x) d → t.bus.peek a = s.bus.peek a ∧ t.bus.backing a = s.bus.backing a)

/-- For every form that stores, on an effective address that behaves as RAM: memory there holds the computed byte
afterwards, the copy register (if any) holds the same byte, and the next Bus read of that address, an instruction
fetch included, answers it. The rows of file 44 are general knowledge (log 3). (R51, R53, R104, R194) -/
def Obligations.StoredByteIsCopiedAndRead : Prop :=
  ∀ (i : Instr) (s : State) (res : Byte), s.bus.isRam (i.ea s) →
    storedByte i.toShape (s.bus.peek (i.ea s)) (s.flag .c) = some res →
    ∃ t b, exec i s = .next t ∧ t.bus.peek (i.ea s) = res ∧ (∀ q, copyTarget i.toShape = some q → t.reg q = res) ∧
      t.bus.read (i.ea s) = .ok (res, b)

/-- For every form that stores, on an effective address backed by ROM: the instruction completes, no byte of memory
changes, and the copy register (if any) holds the computed byte, not a re-read. (R46, R50, R104) -/
def Obligations.CopyIsTheComputedByteOnRom : Prop :=
  ∀ (i : Instr) (s : State) (res : Byte), s.bus.backing (i.ea s) = some .rom →
    storedByte i.toShape (s.bus.peek (i.ea s)) (s.flag .c) = some res →
    ∃ t, exec i s = .next t ∧ t.bus.mem = s.bus.mem ∧ (∀ q, copyTarget i.toShape = some q → t.reg q = res) ∧
      t.bus.calls = s.bus.calls ++ [.read (i.ea s) (s.bus.peek (i.ea s)), .write (i.ea s) res]

/-- On an effective address that behaves as RAM, running a row of SET or RES twice leaves the same memory, registers and
flags as running it once; each run makes its own read and write. The half about RES rests on R147, general knowledge
(log 3). (R46, R132, R147) -/
def Obligations.SetTwiceIsSetOnce : Prop :=
  ∀ (i : Instr) (x : Index) (b : BitVec 3) (save : Option Reg8) (d : Byte) (s : State),
    (i.toShape = .set x b save d ∨ i.toShape = .res x b save d) → s.bus.isRam (i.ea s) →
    ∃ t1 t2, execTimes 1 i s = .next t1 ∧ execTimes 2 i s = .next t2 ∧ (∀ a, t2.bus.peek a = t1.bus.peek a) ∧
      t2.regs = t1.regs ∧ t2.bus.calls.length = s.bus.calls.length + 4

/-- On an effective address that behaves as RAM, RL run nine times on the same address restores the byte and the carry;
run eight times it leaves byte (c << 7) | (v >> 1) and carry v[0]. (R122, 90_conflicts.md C1) -/
def Obligations.NineRlRestoreByteAndCarry : Prop :=
  ∀ (i : Instr) (x : Index) (save : Option Reg8) (d : Byte) (s : State), i.toShape = .shift .rl x save d →
    s.bus.isRam (i.ea s) →
    (∃ t, execTimes 9 i s = .next t ∧ t.bus.peek (i.ea s) = s.bus.peek (i.ea s) ∧ t.flag .c = s.flag .c) ∧
    (∃ t, execTimes 8 i s = .next t ∧
      t.bus.peek (i.ea s) = ((if s.flag .c then 0x80#8 else 0#8) ||| (s.bus.peek (i.ea s) >>> 1)) ∧
      t.flag .c = (s.bus.peek (i.ea s)).getLsbD 0)

/-- On an effective address that behaves as RAM: after SRA the stored byte, read as signed, is the floor of half the old
signed byte, the old byte is twice it plus the carry, and the sign bit is as it was. (R124) -/
def Obligations.SraHalvesSigned : Prop :=
  ∀ (i : Instr) (x : Index) (save : Option Reg8) (d : Byte) (s : State), i.toShape = .shift .sra x save d →
    s.bus.isRam (i.ea s) →
    ∃ t, exec i s = .next t ∧ (t.bus.peek (i.ea s)).toInt = (s.bus.peek (i.ea s)).toInt / 2 ∧
      (s.bus.peek (i.ea s)).toInt = 2 * (t.bus.peek (i.ea s)).toInt + (t.flag .c).toNat ∧
      (t.bus.peek (i.ea s)).getLsbD 7 = (s.bus.peek (i.ea s)).getLsbD 7

/-- For every base and displacement byte, resolveIndexed is the sum of the base and the signed displacement in [-128,
127], modulo 0x10000, with no clamping; the base is IX when the marker is IndexX and IY when it is IndexY; and no
instruction modifies either base register. (R102) -/
def Obligations.IndexedAddressWraps : Prop :=
  (∀ (base : Word) (d : Byte), -128 ≤ d.toInt ∧ d.toInt ≤ 127 ∧
      ((resolveIndexed base d).toNat : Int) = ((base.toNat : Int) + d.toInt) % 0x10000) ∧
    (∀ (s : State) (d : Byte), (s.pfx = .indexX → s.ea d = resolveIndexed s.ix d) ∧
      (s.pfx = .indexY → s.ea d = resolveIndexed s.iy d)) ∧
    (∀ (i : Instr) (s t : State), exec i s = .next t → t.ix = s.ix ∧ t.iy = s.iy)

/-- reg8 is the eight-way switch of R104, and save(r, v) writes v into the named register, leaves the other six and F,
and does nothing for memory-only. The order of the sub-field values, and H and L as the general registers, are a
reading (log 22, DEDUCED, unsafe; D29). (R104) -/
def Obligations.SaveSubFieldTable : Prop :=
  reg8 0#3 = some .b ∧ reg8 1#3 = some .c ∧ reg8 2#3 = some .d ∧ reg8 3#3 = some .e ∧ reg8 4#3 = some .h ∧
    reg8 5#3 = some .l ∧ reg8 6#3 = none ∧ reg8 7#3 = some .a ∧
    (∀ (s : CoreState) (v : Byte), s.save none v = s) ∧
    (∀ (s : CoreState) (q p : Reg8) (v : Byte), (s.save (some q) v).reg q = v ∧
      (p ≠ q → (s.save (some q) v).reg p = s.reg p) ∧ (s.save (some q) v).flags = s.flags)

/-- signCheck, zeroCheck, parity, x5Check, x3Check on every byte and x5Check16, x3Check16 on every address give the mask
of their flag if bit 7 is 1, the byte is 0, the number of 1-bits is even, bit 5, bit 3, address bit 13, address bit
11 is 1, and 0 otherwise. (R90, R91, R92, R93, R94) -/
def Obligations.FlagLibraryValues : Prop :=
  ∀ (v : Byte) (a : Word),
    signCheck v = (if v.getLsbD 7 then Config.flagMask .s else 0#8) ∧
    zeroCheck v = (if v = 0#8 then Config.flagMask .z else 0#8) ∧
    parity v = (if popcount v % 2 = 0 then Config.flagMask .pv else 0#8) ∧
    x5Check v = (if v.getLsbD 5 then Config.flagMask .x5 else 0#8) ∧
    x3Check v = (if v.getLsbD 3 then Config.flagMask .x3 else 0#8) ∧
    x5Check16 a = (if a.getLsbD 13 then Config.flagMask .x5 else 0#8) ∧
    x3Check16 a = (if a.getLsbD 11 then Config.flagMask .x3 else 0#8)

/-- The eight masks are 0x80 0x40 0x20 0x10 0x08 0x04 0x02 0x01 and szp53(v) = (v & 0xA8) | (0x40 if v = 0) | (0x04 if
the number of 1-bits is even). The positions of S Z H P/V N C are the default of FLAG_POS (log 4). (R16, R101) -/
def Obligations.FlagByteNumbers : Prop :=
  Config.flagMask .s = 0x80#8 ∧ Config.flagMask .z = 0x40#8 ∧ Config.flagMask .x5 = 0x20#8 ∧
    Config.flagMask .h = 0x10#8 ∧ Config.flagMask .x3 = 0x08#8 ∧ Config.flagMask .pv = 0x04#8 ∧
    Config.flagMask .n = 0x02#8 ∧ Config.flagMask .c = 0x01#8 ∧
    (∀ v : Byte, szp53 v = (v &&& 0xA8#8) ||| (if v = 0#8 then 0x40#8 else 0#8) |||
      (if popcount v % 2 = 0 then 0x04#8 else 0#8))

/-- The named-bit mutator of F makes the named flag the given value; every other flag reads as before; nothing but F
changes: the seven general registers, the shadow bank, IX, IY, SP, pc, pfx, intState and cyc are as they were (the
Bus is no part of the state it works on); and F is the union of the contributions of its eight named flags. (R16,
R18, R24) -/
def Obligations.NamedFlagAccess : Prop :=
  (∀ (s : CoreState) (fl fl' : Flag) (v : Bool),
      (s.setFlag fl v).flag fl = v ∧ (fl' ≠ fl → (s.setFlag fl v).flag fl' = s.flag fl') ∧
      (∀ q, (s.setFlag fl v).reg q = s.reg q) ∧ (s.setFlag fl v).shadow = s.shadow ∧
      (s.setFlag fl v).ix = s.ix ∧ (s.setFlag fl v).iy = s.iy ∧ (s.setFlag fl v).sp = s.sp ∧
      (s.setFlag fl v).pc = s.pc ∧ (s.setFlag fl v).pfx = s.pfx ∧ (s.setFlag fl v).intState = s.intState ∧
      (s.setFlag fl v).cyc = s.cyc) ∧
    (∀ s : CoreState, s.flags = contribution .s (s.flag .s) ||| contribution .z (s.flag .z) |||
      contribution .x5 (s.flag .x5) ||| contribution .h (s.flag .h) ||| contribution .x3 (s.flag .x3) |||
      contribution .pv (s.flag .pv) ||| contribution .n (s.flag .n) ||| contribution .c (s.flag .c))

/-- The effective address of the register-pair mode is the pair's 16-bit value, first letter the high byte. That BC, DE,
HL are the pairs is the model's choice (log 20). (R20, R103) -/
def Obligations.PairIndirectIsPassThrough : Prop :=
  ∀ s : CoreState, (resolvePair s .bc).toNat = 256 * s.regs.b.toNat + s.regs.c.toNat ∧
    (resolvePair s .de).toNat = 256 * s.regs.d.toNat + s.regs.e.toNat ∧
    (resolvePair s .hl).toNat = 256 * s.regs.h.toNat + s.regs.l.toNat

/-- On an address that behaves as RAM, a Bus write completes; a read of it then answers the written byte, every other
address holds the byte it held, both calls are in the event history, and the canonical form is kept. (R40, R41, R51) -/
def Obligations.RamAnswersAndKeeps : Prop :=
  ∀ (b : Bus) (a : Word) (v : Byte), b.isRam a →
    ∃ b1 b2, b.write a v = .ok b1 ∧ b1.read a = .ok (v, b2) ∧ (∀ c, c ≠ a → b1.peek c = b.peek c) ∧
      b2.mem = b1.mem ∧ b2.calls = b.calls ++ [.write a v, .read a v] ∧ (b.wf = true → b1.wf = true)

/-- For every type of Bus states, every read and write on it, and every Bus state: if four reads from pc on are answered
and the bytes decode to an instruction, a step is that instruction with pc advanced by 4 modulo 0x10000, the marker
set to its index register, and the Bus as the four reads left it. That pc advances by the bytes fetched is log 18
(DEDUCED, D10). (R15, R41, R62) -/
def Obligations.AnyBusStepRunsDecoded : Prop :=
  ∀ (BusState : Type) (B : BusInterface BusState) (admitGk : Bool) (c : CoreState) (b b4 : BusState) (bytes : List Byte)
      (i : Instr),
    readBytesOn B b c.pc 4 = .ok (bytes, b4) → decodeWith admitGk bytes = .instr i [] →
    stepOn B admitGk (c, b) = execOn B i ({ c with pc := c.pc + 4#16, pfx := i.toShape.index.marker }, b4)

/-- For every type of Bus states and every read and write on it: a failing read of ea ends the instruction in BusFailure
with that failure; if the read answers the byte that the Bus of a state answered to a completed instruction, BIT
leaves the same CORE, and a form that stores makes one write of the same byte to ea and leaves the same CORE if it
is taken, and ends in BusFailure with its failure if not. So what the statements about exec say of CORE holds on any
Bus. The rows of file 44 are general knowledge (log 3); the calls are those of log 18. (R41, R42, R50, R173) -/
def Obligations.AnyBusGivesTheSameCore : Prop :=
  ∀ (BusState : Type) (B : BusInterface BusState) (i : Instr) (s : State) (b : BusState),
    (∀ e, B.read b (i.ea s) = .error e → execOn B i (s.toCoreState, b) = .fault (.busFailure e)) ∧
    (∀ (t : State) (v : Byte) (b1 : Bus) (c1 : BusState), s.bus.read (i.ea s) = .ok (v, b1) → exec i s = .next t →
      B.read b (i.ea s) = .ok (v, c1) →
      (storedByte i.toShape v (s.flag .c) = none → execOn B i (s.toCoreState, b) = .next (t.toCoreState, c1)) ∧
      (∀ w, storedByte i.toShape v (s.flag .c) = some w →
        (∀ c2, B.write c1 (i.ea s) w = .ok c2 → execOn B i (s.toCoreState, b) = .next (t.toCoreState, c2)) ∧
        (∀ e, B.write c1 (i.ea s) w = .error e → execOn B i (s.toCoreState, b) = .fault (.busFailure e))))

/-- For any number of steps from a state whose Bus has no special address: its run and the run of CORE on the flat RAM
(a function from address to byte, read m a = (m a, m), write m a v = m[a := v]) end alike, with the same CORE and
the same byte at every address. A claim on several steps assumes a host that leaves the state alone between them
(log 12, D15). (R41, R53) -/
def Obligations.StateRunsAsTheFlatRam : Prop :=
  ∀ (admitGk : Bool) (n : Nat) (s : State), s.bus.special = [] →
    mapNext (fun t : State => (t.toCoreState, t.bus.peek)) (steps (stepWith admitGk) n s) =
      steps (stepOn .flatRam admitGk) n (s.toCoreState, s.bus.peek)

/-- For every type of Bus states, every read and write on it, every Bus state, every CORE and any number of steps there
is a canonical Bus of State with nothing called yet (devices that answer in turn, log 7) such that the run of
stepWith from it ends alike, with the same CORE and the same event history of completed calls, or the same fault or
refusal. A claim on several steps assumes a host that leaves the state alone between them (log 12, D15). (R41, R46) -/
def Obligations.EveryBusRunIsARunOfState : Prop :=
  ∀ (BusState : Type) (B : BusInterface BusState) (admitGk : Bool) (n : Nat) (c : CoreState) (b : BusState),
    ∃ bus : Bus, bus.wf = true ∧ bus.calls = [] ∧
      mapNext (fun t : State => (t.toCoreState, t.bus.calls))
          (steps (stepWith admitGk) n { toCoreState := c, bus := bus }) =
        mapNext (fun p => (p.1, p.2.2)) (steps (stepOn B.recorded admitGk) n (c, (b, [])))
end

