-- ==== Sys2Proof/Laws/PerInstr.lean ====
section
/-! SUPPORT. Facts about every instruction, one lemma per constructor. -/

namespace Sys2Proof.Laws.ShapeRoundTrip

/-- The operand form of an instruction names that instruction (R67, R148). -/
def Statement (i : Instr) : Prop := Instr.ofShape i.toShape = i

theorem bitIx (b : BitVec 3) (d : Byte) (r : BitVec 3) : Statement (.bitIx b d r) := rfl
theorem rlIxB (d : Byte) : Statement (.rlIxB d) := rfl
theorem rlIxC (d : Byte) : Statement (.rlIxC d) := rfl
theorem rlIxD (d : Byte) : Statement (.rlIxD d) := rfl
theorem rlIxE (d : Byte) : Statement (.rlIxE d) := rfl
theorem rlIxH (d : Byte) : Statement (.rlIxH d) := rfl
theorem rlIxL (d : Byte) : Statement (.rlIxL d) := rfl
theorem rlIx (d : Byte) : Statement (.rlIx d) := rfl
theorem rlIxA (d : Byte) : Statement (.rlIxA d) := rfl
theorem sraIxB (d : Byte) : Statement (.sraIxB d) := rfl
theorem sraIxC (d : Byte) : Statement (.sraIxC d) := rfl
theorem sraIxD (d : Byte) : Statement (.sraIxD d) := rfl
theorem sraIxE (d : Byte) : Statement (.sraIxE d) := rfl
theorem sraIxH (d : Byte) : Statement (.sraIxH d) := rfl
theorem sraIxL (d : Byte) : Statement (.sraIxL d) := rfl
theorem sraIx (d : Byte) : Statement (.sraIx d) := rfl
theorem sraIxA (d : Byte) : Statement (.sraIxA d) := rfl
theorem setIxB (b : BitVec 3) (d : Byte) : Statement (.setIxB b d) := rfl
theorem setIxC (b : BitVec 3) (d : Byte) : Statement (.setIxC b d) := rfl
theorem setIxD (b : BitVec 3) (d : Byte) : Statement (.setIxD b d) := rfl
theorem setIxE (b : BitVec 3) (d : Byte) : Statement (.setIxE b d) := rfl
theorem setIxH (b : BitVec 3) (d : Byte) : Statement (.setIxH b d) := rfl
theorem setIxL (b : BitVec 3) (d : Byte) : Statement (.setIxL b d) := rfl
theorem setIx (b : BitVec 3) (d : Byte) : Statement (.setIx b d) := rfl
theorem setIxA (b : BitVec 3) (d : Byte) : Statement (.setIxA b d) := rfl
theorem rlcIxB (d : Byte) : Statement (.rlcIxB d) := rfl
theorem rlcIxC (d : Byte) : Statement (.rlcIxC d) := rfl
theorem rlcIxD (d : Byte) : Statement (.rlcIxD d) := rfl
theorem rlcIxE (d : Byte) : Statement (.rlcIxE d) := rfl
theorem rlcIxH (d : Byte) : Statement (.rlcIxH d) := rfl
theorem rlcIxL (d : Byte) : Statement (.rlcIxL d) := rfl
theorem rlcIx (d : Byte) : Statement (.rlcIx d) := rfl
theorem rlcIxA (d : Byte) : Statement (.rlcIxA d) := rfl
theorem rrcIxB (d : Byte) : Statement (.rrcIxB d) := rfl
theorem rrcIxC (d : Byte) : Statement (.rrcIxC d) := rfl
theorem rrcIxD (d : Byte) : Statement (.rrcIxD d) := rfl
theorem rrcIxE (d : Byte) : Statement (.rrcIxE d) := rfl
theorem rrcIxH (d : Byte) : Statement (.rrcIxH d) := rfl
theorem rrcIxL (d : Byte) : Statement (.rrcIxL d) := rfl
theorem rrcIx (d : Byte) : Statement (.rrcIx d) := rfl
theorem rrcIxA (d : Byte) : Statement (.rrcIxA d) := rfl
theorem rrIxB (d : Byte) : Statement (.rrIxB d) := rfl
theorem rrIxC (d : Byte) : Statement (.rrIxC d) := rfl
theorem rrIxD (d : Byte) : Statement (.rrIxD d) := rfl
theorem rrIxE (d : Byte) : Statement (.rrIxE d) := rfl
theorem rrIxH (d : Byte) : Statement (.rrIxH d) := rfl
theorem rrIxL (d : Byte) : Statement (.rrIxL d) := rfl
theorem rrIx (d : Byte) : Statement (.rrIx d) := rfl
theorem rrIxA (d : Byte) : Statement (.rrIxA d) := rfl
theorem slaIxB (d : Byte) : Statement (.slaIxB d) := rfl
theorem slaIxC (d : Byte) : Statement (.slaIxC d) := rfl
theorem slaIxD (d : Byte) : Statement (.slaIxD d) := rfl
theorem slaIxE (d : Byte) : Statement (.slaIxE d) := rfl
theorem slaIxH (d : Byte) : Statement (.slaIxH d) := rfl
theorem slaIxL (d : Byte) : Statement (.slaIxL d) := rfl
theorem slaIx (d : Byte) : Statement (.slaIx d) := rfl
theorem slaIxA (d : Byte) : Statement (.slaIxA d) := rfl
theorem sllIxB (d : Byte) : Statement (.sllIxB d) := rfl
theorem sllIxC (d : Byte) : Statement (.sllIxC d) := rfl
theorem sllIxD (d : Byte) : Statement (.sllIxD d) := rfl
theorem sllIxE (d : Byte) : Statement (.sllIxE d) := rfl
theorem sllIxH (d : Byte) : Statement (.sllIxH d) := rfl
theorem sllIxL (d : Byte) : Statement (.sllIxL d) := rfl
theorem sllIx (d : Byte) : Statement (.sllIx d) := rfl
theorem sllIxA (d : Byte) : Statement (.sllIxA d) := rfl
theorem srlIxB (d : Byte) : Statement (.srlIxB d) := rfl
theorem srlIxC (d : Byte) : Statement (.srlIxC d) := rfl
theorem srlIxD (d : Byte) : Statement (.srlIxD d) := rfl
theorem srlIxE (d : Byte) : Statement (.srlIxE d) := rfl
theorem srlIxH (d : Byte) : Statement (.srlIxH d) := rfl
theorem srlIxL (d : Byte) : Statement (.srlIxL d) := rfl
theorem srlIx (d : Byte) : Statement (.srlIx d) := rfl
theorem srlIxA (d : Byte) : Statement (.srlIxA d) := rfl
theorem resIxB (b : BitVec 3) (d : Byte) : Statement (.resIxB b d) := rfl
theorem resIxC (b : BitVec 3) (d : Byte) : Statement (.resIxC b d) := rfl
theorem resIxD (b : BitVec 3) (d : Byte) : Statement (.resIxD b d) := rfl
theorem resIxE (b : BitVec 3) (d : Byte) : Statement (.resIxE b d) := rfl
theorem resIxH (b : BitVec 3) (d : Byte) : Statement (.resIxH b d) := rfl
theorem resIxL (b : BitVec 3) (d : Byte) : Statement (.resIxL b d) := rfl
theorem resIx (b : BitVec 3) (d : Byte) : Statement (.resIx b d) := rfl
theorem resIxA (b : BitVec 3) (d : Byte) : Statement (.resIxA b d) := rfl
theorem bitIy (b : BitVec 3) (d : Byte) (r : BitVec 3) : Statement (.bitIy b d r) := rfl
theorem rlIyB (d : Byte) : Statement (.rlIyB d) := rfl
theorem rlIyC (d : Byte) : Statement (.rlIyC d) := rfl
theorem rlIyD (d : Byte) : Statement (.rlIyD d) := rfl
theorem rlIyE (d : Byte) : Statement (.rlIyE d) := rfl
theorem rlIyH (d : Byte) : Statement (.rlIyH d) := rfl
theorem rlIyL (d : Byte) : Statement (.rlIyL d) := rfl
theorem rlIy (d : Byte) : Statement (.rlIy d) := rfl
theorem rlIyA (d : Byte) : Statement (.rlIyA d) := rfl
theorem sraIyB (d : Byte) : Statement (.sraIyB d) := rfl
theorem sraIyC (d : Byte) : Statement (.sraIyC d) := rfl
theorem sraIyD (d : Byte) : Statement (.sraIyD d) := rfl
theorem sraIyE (d : Byte) : Statement (.sraIyE d) := rfl
theorem sraIyH (d : Byte) : Statement (.sraIyH d) := rfl
theorem sraIyL (d : Byte) : Statement (.sraIyL d) := rfl
theorem sraIy (d : Byte) : Statement (.sraIy d) := rfl
theorem sraIyA (d : Byte) : Statement (.sraIyA d) := rfl
theorem setIyB (b : BitVec 3) (d : Byte) : Statement (.setIyB b d) := rfl
theorem setIyC (b : BitVec 3) (d : Byte) : Statement (.setIyC b d) := rfl
theorem setIyD (b : BitVec 3) (d : Byte) : Statement (.setIyD b d) := rfl
theorem setIyE (b : BitVec 3) (d : Byte) : Statement (.setIyE b d) := rfl
theorem setIyH (b : BitVec 3) (d : Byte) : Statement (.setIyH b d) := rfl
theorem setIyL (b : BitVec 3) (d : Byte) : Statement (.setIyL b d) := rfl
theorem setIy (b : BitVec 3) (d : Byte) : Statement (.setIy b d) := rfl
theorem setIyA (b : BitVec 3) (d : Byte) : Statement (.setIyA b d) := rfl
theorem rlcIyB (d : Byte) : Statement (.rlcIyB d) := rfl
theorem rlcIyC (d : Byte) : Statement (.rlcIyC d) := rfl
theorem rlcIyD (d : Byte) : Statement (.rlcIyD d) := rfl
theorem rlcIyE (d : Byte) : Statement (.rlcIyE d) := rfl
theorem rlcIyH (d : Byte) : Statement (.rlcIyH d) := rfl
theorem rlcIyL (d : Byte) : Statement (.rlcIyL d) := rfl
theorem rlcIy (d : Byte) : Statement (.rlcIy d) := rfl
theorem rlcIyA (d : Byte) : Statement (.rlcIyA d) := rfl
theorem rrcIyB (d : Byte) : Statement (.rrcIyB d) := rfl
theorem rrcIyC (d : Byte) : Statement (.rrcIyC d) := rfl
theorem rrcIyD (d : Byte) : Statement (.rrcIyD d) := rfl
theorem rrcIyE (d : Byte) : Statement (.rrcIyE d) := rfl
theorem rrcIyH (d : Byte) : Statement (.rrcIyH d) := rfl
theorem rrcIyL (d : Byte) : Statement (.rrcIyL d) := rfl
theorem rrcIy (d : Byte) : Statement (.rrcIy d) := rfl
theorem rrcIyA (d : Byte) : Statement (.rrcIyA d) := rfl
theorem rrIyB (d : Byte) : Statement (.rrIyB d) := rfl
theorem rrIyC (d : Byte) : Statement (.rrIyC d) := rfl
theorem rrIyD (d : Byte) : Statement (.rrIyD d) := rfl
theorem rrIyE (d : Byte) : Statement (.rrIyE d) := rfl
theorem rrIyH (d : Byte) : Statement (.rrIyH d) := rfl
theorem rrIyL (d : Byte) : Statement (.rrIyL d) := rfl
theorem rrIy (d : Byte) : Statement (.rrIy d) := rfl
theorem rrIyA (d : Byte) : Statement (.rrIyA d) := rfl
theorem slaIyB (d : Byte) : Statement (.slaIyB d) := rfl
theorem slaIyC (d : Byte) : Statement (.slaIyC d) := rfl
theorem slaIyD (d : Byte) : Statement (.slaIyD d) := rfl
theorem slaIyE (d : Byte) : Statement (.slaIyE d) := rfl
theorem slaIyH (d : Byte) : Statement (.slaIyH d) := rfl
theorem slaIyL (d : Byte) : Statement (.slaIyL d) := rfl
theorem slaIy (d : Byte) : Statement (.slaIy d) := rfl
theorem slaIyA (d : Byte) : Statement (.slaIyA d) := rfl
theorem sllIyB (d : Byte) : Statement (.sllIyB d) := rfl
theorem sllIyC (d : Byte) : Statement (.sllIyC d) := rfl
theorem sllIyD (d : Byte) : Statement (.sllIyD d) := rfl
theorem sllIyE (d : Byte) : Statement (.sllIyE d) := rfl
theorem sllIyH (d : Byte) : Statement (.sllIyH d) := rfl
theorem sllIyL (d : Byte) : Statement (.sllIyL d) := rfl
theorem sllIy (d : Byte) : Statement (.sllIy d) := rfl
theorem sllIyA (d : Byte) : Statement (.sllIyA d) := rfl
theorem srlIyB (d : Byte) : Statement (.srlIyB d) := rfl
theorem srlIyC (d : Byte) : Statement (.srlIyC d) := rfl
theorem srlIyD (d : Byte) : Statement (.srlIyD d) := rfl
theorem srlIyE (d : Byte) : Statement (.srlIyE d) := rfl
theorem srlIyH (d : Byte) : Statement (.srlIyH d) := rfl
theorem srlIyL (d : Byte) : Statement (.srlIyL d) := rfl
theorem srlIy (d : Byte) : Statement (.srlIy d) := rfl
theorem srlIyA (d : Byte) : Statement (.srlIyA d) := rfl
theorem resIyB (b : BitVec 3) (d : Byte) : Statement (.resIyB b d) := rfl
theorem resIyC (b : BitVec 3) (d : Byte) : Statement (.resIyC b d) := rfl
theorem resIyD (b : BitVec 3) (d : Byte) : Statement (.resIyD b d) := rfl
theorem resIyE (b : BitVec 3) (d : Byte) : Statement (.resIyE b d) := rfl
theorem resIyH (b : BitVec 3) (d : Byte) : Statement (.resIyH b d) := rfl
theorem resIyL (b : BitVec 3) (d : Byte) : Statement (.resIyL b d) := rfl
theorem resIy (b : BitVec 3) (d : Byte) : Statement (.resIy b d) := rfl
theorem resIyA (b : BitVec 3) (d : Byte) : Statement (.resIyA b d) := rfl

end Sys2Proof.Laws.ShapeRoundTrip
end

