-- ==== Sys2Proof/Laws/Decode.lean ====
section
/-! SUPPORT. The decoder's parts: operand forms and table rows are in bijection, and each field of the opcode byte is
read and written by inverse functions. -/

namespace Sys2Proof

/-- Every table row is the row of its operand form. -/
@[simp] theorem Instr.ofShape_toShape (i : Instr) : Instr.ofShape i.toShape = i := by
  cases i <;> rfl

/-- Every operand form is the form of its table row. -/
@[simp] theorem Instr.toShape_ofShape (p : Shape) : (Instr.ofShape p).toShape = p := by
  rcases p with ⟨k, x, save, d⟩ | ⟨x, b, r, d⟩ | ⟨x, b, save, d⟩ | ⟨x, b, save, d⟩
  · cases k <;> cases x <;> rcases save with _ | (_ | _ | _ | _ | _ | _ | _) <;> rfl
  · cases x <;> rfl
  · cases x <;> rcases save with _ | (_ | _ | _ | _ | _ | _ | _) <;> rfl
  · cases x <;> rcases save with _ | (_ | _ | _ | _ | _ | _ | _) <;> rfl

@[simp] theorem reg8_saveBits (save : Option Reg8) : reg8 (saveBits save) = save := by
  rcases save with _ | q
  · rfl
  · cases q <;> rfl

@[simp] theorem saveBits_reg8 (r : BitVec 3) : saveBits (reg8 r) = r := by
  revert r; decide

@[simp] theorem ShiftKind.ofY_y (k : ShiftKind) : ShiftKind.ofY k.y = k := by cases k <;> rfl

@[simp] theorem ShiftKind.y_ofY (y : BitVec 3) : (ShiftKind.ofY y).y = y := by
  revert y; decide

@[simp] theorem shapeOfOpcode_index (x : Index) (d op : Byte) : (shapeOfOpcode x d op).index = x := by
  unfold shapeOfOpcode; dsimp only; split <;> rfl

@[simp] theorem shapeOfOpcode_disp (x : Index) (d op : Byte) : (shapeOfOpcode x d op).disp = d := by
  unfold shapeOfOpcode; dsimp only; split <;> rfl

/-- The look-up answers a row only for an indexed-bit-operation, and then the row of its opcode byte, if admitted. -/
theorem lookup_eq_some {admitGk : Bool} {sel : Selected} {i : Instr} :
    lookup admitGk sel = some i ↔
      ∃ x d op, sel = .indexedBit x d op ∧ i = Instr.ofShape (shapeOfOpcode x d op) ∧ i.wf admitGk = true := by
  rcases sel with ⟨c, op⟩ | ⟨x, d, op⟩
  · simp [lookup]
  · simp only [lookup]
    split
    · rename_i h
      constructor
      · rintro ⟨⟩; exact ⟨x, d, op, rfl, rfl, h⟩
      · rintro ⟨x', d', op', he, rfl, -⟩; cases he; rfl
    · rename_i h
      simp only [reduceCtorEq, false_iff]
      rintro ⟨x', d', op', he, rfl, hw⟩; cases he; exact h hw

/-- The four bytes of an indexed-bit-operation, and nothing else, select it. -/
theorem select_list_indexedBit {bytes rest : List Byte} {x : Index} {d op : Byte} :
    select listSource bytes = .ok (.indexedBit x d op, rest) ↔ bytes = x.byte :: cbByte :: d :: op :: rest := by
  constructor
  · intro h
    rcases bytes with _ | ⟨b0, _ | ⟨b1, _ | ⟨d', _ | ⟨op', rest'⟩⟩⟩⟩ <;>
      simp only [select, listSource, enterTable, enterIndex, fetchDisplacement] at h <;>
      (repeat' split at h) <;> simp_all
  · rintro rfl
    cases x <;> rfl

end Sys2Proof
end

