-- ==== Sys2Proof/Laws/State.lean ====
section
/-! SUPPORT. One lemma per field per update of CoreState and of Bank, and of the two parts of State, so that no later proof unfolds a record update. -/

namespace Sys2Proof.Machine

@[simp] theorem CoreState.setReg_shadow (s : CoreState) (r : Reg8) (v : Byte) : (s.setReg r v).shadow = s.shadow := rfl
@[simp] theorem CoreState.setReg_ix (s : CoreState) (r : Reg8) (v : Byte) : (s.setReg r v).ix = s.ix := rfl
@[simp] theorem CoreState.setReg_iy (s : CoreState) (r : Reg8) (v : Byte) : (s.setReg r v).iy = s.iy := rfl
@[simp] theorem CoreState.setReg_sp (s : CoreState) (r : Reg8) (v : Byte) : (s.setReg r v).sp = s.sp := rfl
@[simp] theorem CoreState.setReg_pc (s : CoreState) (r : Reg8) (v : Byte) : (s.setReg r v).pc = s.pc := rfl
@[simp] theorem CoreState.setReg_pfx (s : CoreState) (r : Reg8) (v : Byte) : (s.setReg r v).pfx = s.pfx := rfl
@[simp] theorem CoreState.setReg_intState (s : CoreState) (r : Reg8) (v : Byte) : (s.setReg r v).intState = s.intState := rfl
@[simp] theorem CoreState.setReg_cyc (s : CoreState) (r : Reg8) (v : Byte) : (s.setReg r v).cyc = s.cyc := rfl

@[simp] theorem CoreState.setFlags_shadow (s : CoreState) (v : Byte) : (s.setFlags v).shadow = s.shadow := rfl
@[simp] theorem CoreState.setFlags_ix (s : CoreState) (v : Byte) : (s.setFlags v).ix = s.ix := rfl
@[simp] theorem CoreState.setFlags_iy (s : CoreState) (v : Byte) : (s.setFlags v).iy = s.iy := rfl
@[simp] theorem CoreState.setFlags_sp (s : CoreState) (v : Byte) : (s.setFlags v).sp = s.sp := rfl
@[simp] theorem CoreState.setFlags_pc (s : CoreState) (v : Byte) : (s.setFlags v).pc = s.pc := rfl
@[simp] theorem CoreState.setFlags_pfx (s : CoreState) (v : Byte) : (s.setFlags v).pfx = s.pfx := rfl
@[simp] theorem CoreState.setFlags_intState (s : CoreState) (v : Byte) : (s.setFlags v).intState = s.intState := rfl
@[simp] theorem CoreState.setFlags_cyc (s : CoreState) (v : Byte) : (s.setFlags v).cyc = s.cyc := rfl

@[simp] theorem CoreState.save_shadow (s : CoreState) (r : Option Reg8) (v : Byte) : (s.save r v).shadow = s.shadow := by cases r <;> rfl
@[simp] theorem CoreState.save_ix (s : CoreState) (r : Option Reg8) (v : Byte) : (s.save r v).ix = s.ix := by cases r <;> rfl
@[simp] theorem CoreState.save_iy (s : CoreState) (r : Option Reg8) (v : Byte) : (s.save r v).iy = s.iy := by cases r <;> rfl
@[simp] theorem CoreState.save_sp (s : CoreState) (r : Option Reg8) (v : Byte) : (s.save r v).sp = s.sp := by cases r <;> rfl
@[simp] theorem CoreState.save_pc (s : CoreState) (r : Option Reg8) (v : Byte) : (s.save r v).pc = s.pc := by cases r <;> rfl
@[simp] theorem CoreState.save_pfx (s : CoreState) (r : Option Reg8) (v : Byte) : (s.save r v).pfx = s.pfx := by cases r <;> rfl
@[simp] theorem CoreState.save_intState (s : CoreState) (r : Option Reg8) (v : Byte) : (s.save r v).intState = s.intState := by cases r <;> rfl
@[simp] theorem CoreState.save_cyc (s : CoreState) (r : Option Reg8) (v : Byte) : (s.save r v).cyc = s.cyc := by cases r <;> rfl

@[simp] theorem CoreState.writeFlags_shadow (s : CoreState) (f : Option Byte) : (s.writeFlags f).shadow = s.shadow := by cases f <;> rfl
@[simp] theorem CoreState.writeFlags_ix (s : CoreState) (f : Option Byte) : (s.writeFlags f).ix = s.ix := by cases f <;> rfl
@[simp] theorem CoreState.writeFlags_iy (s : CoreState) (f : Option Byte) : (s.writeFlags f).iy = s.iy := by cases f <;> rfl
@[simp] theorem CoreState.writeFlags_sp (s : CoreState) (f : Option Byte) : (s.writeFlags f).sp = s.sp := by cases f <;> rfl
@[simp] theorem CoreState.writeFlags_pc (s : CoreState) (f : Option Byte) : (s.writeFlags f).pc = s.pc := by cases f <;> rfl
@[simp] theorem CoreState.writeFlags_pfx (s : CoreState) (f : Option Byte) : (s.writeFlags f).pfx = s.pfx := by cases f <;> rfl
@[simp] theorem CoreState.writeFlags_intState (s : CoreState) (f : Option Byte) : (s.writeFlags f).intState = s.intState := by cases f <;> rfl
@[simp] theorem CoreState.writeFlags_cyc (s : CoreState) (f : Option Byte) : (s.writeFlags f).cyc = s.cyc := by cases f <;> rfl

@[simp] theorem CoreState.enter_regs (s : CoreState) (x : Index) : (s.enter x).regs = s.regs := rfl
@[simp] theorem CoreState.enter_shadow (s : CoreState) (x : Index) : (s.enter x).shadow = s.shadow := rfl
@[simp] theorem CoreState.enter_ix (s : CoreState) (x : Index) : (s.enter x).ix = s.ix := rfl
@[simp] theorem CoreState.enter_iy (s : CoreState) (x : Index) : (s.enter x).iy = s.iy := rfl
@[simp] theorem CoreState.enter_sp (s : CoreState) (x : Index) : (s.enter x).sp = s.sp := rfl
@[simp] theorem CoreState.enter_pc (s : CoreState) (x : Index) : (s.enter x).pc = s.pc := rfl
@[simp] theorem CoreState.enter_intState (s : CoreState) (x : Index) : (s.enter x).intState = s.intState := rfl
@[simp] theorem CoreState.enter_cyc (s : CoreState) (x : Index) : (s.enter x).cyc = s.cyc := rfl

@[simp] theorem CoreState.complete_regs (s : CoreState) (n : Nat) : (s.complete n).regs = s.regs := rfl
@[simp] theorem CoreState.complete_shadow (s : CoreState) (n : Nat) : (s.complete n).shadow = s.shadow := rfl
@[simp] theorem CoreState.complete_ix (s : CoreState) (n : Nat) : (s.complete n).ix = s.ix := rfl
@[simp] theorem CoreState.complete_iy (s : CoreState) (n : Nat) : (s.complete n).iy = s.iy := rfl
@[simp] theorem CoreState.complete_sp (s : CoreState) (n : Nat) : (s.complete n).sp = s.sp := rfl
@[simp] theorem CoreState.complete_pc (s : CoreState) (n : Nat) : (s.complete n).pc = s.pc := rfl
@[simp] theorem CoreState.complete_intState (s : CoreState) (n : Nat) : (s.complete n).intState = s.intState := rfl

@[simp] theorem CoreState.setReg_regs (s : CoreState) (r : Reg8) (v : Byte) : (s.setReg r v).regs = s.regs.set r v := rfl
@[simp] theorem CoreState.setFlags_regs (s : CoreState) (v : Byte) : (s.setFlags v).regs = { s.regs with f := v } := rfl
@[simp] theorem CoreState.enter_pfx (s : CoreState) (x : Index) : (s.enter x).pfx = x.marker := rfl
@[simp] theorem CoreState.complete_pfx (s : CoreState) (n : Nat) : (s.complete n).pfx = .none := rfl
@[simp] theorem CoreState.complete_cyc (s : CoreState) (n : Nat) : (s.complete n).cyc = s.cyc + n := rfl
@[simp] theorem CoreState.save_none (s : CoreState) (v : Byte) : s.save none v = s := rfl
@[simp] theorem CoreState.save_some (s : CoreState) (r : Reg8) (v : Byte) : s.save (some r) v = s.setReg r v := rfl
@[simp] theorem CoreState.writeFlags_none (s : CoreState) : s.writeFlags none = s := rfl
@[simp] theorem CoreState.writeFlags_some (s : CoreState) (v : Byte) : s.writeFlags (some v) = s.setFlags v := rfl

/-! ### Registers and flags of a bank -/

@[simp] theorem Bank.get_set_same (k : Bank) (r : Reg8) (v : Byte) : (k.set r v).get r = v := by cases r <;> rfl

theorem Bank.get_set_other (k : Bank) {q r : Reg8} (v : Byte) (h : q ≠ r) : (k.set r v).get q = k.get q := by
  cases q <;> cases r <;> first | rfl | exact absurd rfl h

@[simp] theorem Bank.set_f (k : Bank) (r : Reg8) (v : Byte) : (k.set r v).f = k.f := by cases r <;> rfl

@[simp] theorem Bank.get_withF (k : Bank) (r : Reg8) (v : Byte) : ({ k with f := v } : Bank).get r = k.get r := by
  cases r <;> rfl

@[simp] theorem CoreState.setFlags_flags (s : CoreState) (v : Byte) : (s.setFlags v).flags = v := rfl
@[simp] theorem CoreState.setFlags_reg (s : CoreState) (v : Byte) (q : Reg8) : (s.setFlags v).reg q = s.reg q := by
  simp [CoreState.reg]
@[simp] theorem CoreState.setReg_flags (s : CoreState) (r : Reg8) (v : Byte) : (s.setReg r v).flags = s.flags := by
  simp [CoreState.flags]
@[simp] theorem CoreState.setReg_reg_same (s : CoreState) (r : Reg8) (v : Byte) : (s.setReg r v).reg r = v := by
  simp [CoreState.reg]
theorem CoreState.setReg_reg_other (s : CoreState) {q r : Reg8} (v : Byte) (h : q ≠ r) :
    (s.setReg r v).reg q = s.reg q := by
  simp [CoreState.reg, Bank.get_set_other _ _ h]
@[simp] theorem CoreState.save_flags (s : CoreState) (r : Option Reg8) (v : Byte) : (s.save r v).flags = s.flags := by
  cases r <;> simp
theorem CoreState.save_reg_other (s : CoreState) {q : Reg8} {r : Option Reg8} (v : Byte) (h : r ≠ some q) :
    (s.save r v).reg q = s.reg q := by
  cases r with
  | none => rfl
  | some r => exact s.setReg_reg_other v (fun e => h (by rw [e]))
@[simp] theorem CoreState.writeFlags_reg (s : CoreState) (f : Option Byte) (q : Reg8) : (s.writeFlags f).reg q = s.reg q := by
  cases f <;> simp
theorem CoreState.writeFlags_flags (s : CoreState) (f : Option Byte) : (s.writeFlags f).flags = f.getD s.flags := by
  cases f <;> rfl
@[simp] theorem CoreState.enter_flags (s : CoreState) (x : Index) : (s.enter x).flags = s.flags := rfl
@[simp] theorem CoreState.enter_reg (s : CoreState) (x : Index) (q : Reg8) : (s.enter x).reg q = s.reg q := rfl
@[simp] theorem CoreState.complete_flags (s : CoreState) (n : Nat) : (s.complete n).flags = s.flags := rfl
@[simp] theorem CoreState.complete_reg (s : CoreState) (n : Nat) (q : Reg8) : (s.complete n).reg q = s.reg q := rfl

/-- The marker selects the index register of the instruction (R7, R113). -/
@[simp] theorem CoreState.enter_xy (s : CoreState) (x : Index) : (s.enter x).xy = s.index x := by cases x <;> rfl

@[simp] theorem CoreState.enter_ea (s : CoreState) (x : Index) (d : Byte) :
    (s.enter x).ea d = resolveIndexed (s.index x) d := by simp [CoreState.ea]

/-! ### The two parts of a state -/

@[simp] theorem State.split_fst (s : State) : s.split.1 = s.toCoreState := rfl
@[simp] theorem State.split_snd (s : State) : s.split.2 = s.bus := rfl
@[simp] theorem State.join_toCoreState (p : CoreState × Bus) : (State.join p).toCoreState = p.1 := rfl
@[simp] theorem State.join_bus (p : CoreState × Bus) : (State.join p).bus = p.2 := rfl
@[simp] theorem State.join_split (s : State) : State.join s.split = s := rfl
@[simp] theorem State.split_join (p : CoreState × Bus) : (State.join p).split = p := rfl

/-! ### Outcomes -/

@[simp] theorem mapNext_next {σ τ : Type} (f : σ → τ) (s : σ) : mapNext f (.next s) = .next (f s) := rfl
@[simp] theorem mapNext_fault {σ τ : Type} (f : σ → τ) (e : Fault) : mapNext f (.fault e) = .fault e := rfl
@[simp] theorem mapNext_refused {σ τ : Type} (f : σ → τ) (r : Refusal) : mapNext f (.refused r) = .refused r := rfl
@[simp] theorem mapNext_busFailed {σ τ : Type} (f : σ → τ) (e : BusError) : mapNext f (busFailed e) = busFailed e := rfl

/-! ### Creation -/

@[simp] theorem State.create_pfx (i : Init) (b : Bus) : (State.create i b).pfx = .none := rfl
@[simp] theorem State.create_cyc (i : Init) (b : Bus) : (State.create i b).cyc = 0 := rfl
@[simp] theorem State.create_bus (i : Init) (b : Bus) : (State.create i b).bus = b := rfl

end Sys2Proof.Machine
end

