-- ==== Sys2Proof/Laws/Memory.lean ====
section
/-! SUPPORT. The laws of the RAM and of the Bus: read after write, the canonical form, and everything one Bus call can
do. -/

namespace Sys2Proof.Machine

/-! ### RAM -/

theorem Memory.read_erase (m : Memory) (a b : Nat) :
    (m.erase a).read b = if b = a then Config.unlistedByte else m.read b := by
  induction m with
  | nil => simp [Memory.erase, Memory.read]
  | cons cell m ih =>
    obtain ⟨k, w⟩ := cell
    simp only [Memory.erase, List.filter_cons] at ih ⊢
    by_cases hk : k = a
    · simp only [hk, ne_eq, not_true, decide_false, Bool.false_eq_true, if_false, ih, Memory.read]
      split <;> simp_all
    · simp only [ne_eq, hk, not_false_eq_true, decide_true, if_true, Memory.read, ih]
      by_cases hb : b = k
      · have : b ≠ a := by omega
        simp [hb, hk]
      · simp [hb]

theorem Memory.read_insert_of_absent (m : Memory) (a b : Nat) (v : Byte) (h : ∀ cell ∈ m, cell.1 ≠ a) :
    (m.insert a v).read b = if b = a then v else m.read b := by
  induction m with
  | nil => simp [Memory.insert, Memory.read]
  | cons cell m ih =>
    obtain ⟨k, w⟩ := cell
    have hk : k ≠ a := h (k, w) (by simp)
    have ih := ih (fun c hc => h c (by simp [hc]))
    simp only [Memory.insert]
    split
    · simp only [Memory.read]
    · simp only [Memory.read, ih]
      by_cases hb : b = k
      · subst hb; simp [hk]
      · simp [hb]

/-- Read after write, for every list of cells: the written address gives the value, every other what it gave before. -/
theorem Memory.read_write (m : Memory) (a b : Nat) (v : Byte) :
    (m.write a v).read b = if b = a then v else m.read b := by
  unfold Memory.write
  split
  · rename_i hv; rw [Memory.read_erase, hv]
  · rw [Memory.read_insert_of_absent _ _ _ _ (by simp [Memory.erase]), Memory.read_erase]
    split <;> rfl

theorem Memory.wfFrom_erase (m : Memory) (lo lo' a : Nat) (hlo : lo' ≤ lo) (h : m.wfFrom lo = true) :
    (m.erase a).wfFrom lo' = true := by
  induction m generalizing lo lo' with
  | nil => rfl
  | cons cell m ih =>
    obtain ⟨k, w⟩ := cell
    simp only [Memory.wfFrom, Bool.and_eq_true, decide_eq_true_eq] at h
    obtain ⟨⟨⟨h1, h2⟩, h3⟩, h4⟩ := h
    simp only [Memory.erase, List.filter_cons]
    split
    · simp only [Memory.wfFrom, Bool.and_eq_true, decide_eq_true_eq]
      exact ⟨⟨⟨by omega, h2⟩, h3⟩, ih (k + 1) (k + 1) le_rfl h4⟩
    · exact ih (k + 1) lo' (by omega) h4

theorem Memory.wfFrom_insert (m : Memory) (lo a : Nat) (v : Byte) (hlo : lo ≤ a) (ha : a < 0x10000)
    (hv : v ≠ Config.unlistedByte) (habs : ∀ cell ∈ m, cell.1 ≠ a) (h : m.wfFrom lo = true) :
    (m.insert a v).wfFrom lo = true := by
  induction m generalizing lo with
  | nil => simp [Memory.insert, Memory.wfFrom, hlo, ha, hv]
  | cons cell m ih =>
    obtain ⟨k, w⟩ := cell
    have hk : k ≠ a := habs (k, w) (by simp)
    simp only [Memory.wfFrom, Bool.and_eq_true, decide_eq_true_eq] at h
    obtain ⟨⟨⟨h1, h2⟩, h3⟩, h4⟩ := h
    simp only [Memory.insert]
    split
    · simp only [Memory.wfFrom, Bool.and_eq_true, decide_eq_true_eq]
      exact ⟨⟨⟨hlo, ha⟩, hv⟩, ⟨⟨by omega, h2⟩, h3⟩, h4⟩
    · simp only [Memory.wfFrom, Bool.and_eq_true, decide_eq_true_eq]
      exact ⟨⟨⟨h1, h2⟩, h3⟩, ih (k + 1) (by omega) (fun c hc => habs c (by simp [hc])) h4⟩

/-- A write inside the address space keeps the canonical form. -/
theorem Memory.wf_write (m : Memory) (a : Nat) (v : Byte) (ha : a < 0x10000) (h : m.wf = true) :
    (m.write a v).wf = true := by
  unfold Memory.write Memory.wf at *
  split
  · exact Memory.wfFrom_erase m 0 0 a le_rfl h
  · rename_i hv
    exact Memory.wfFrom_insert _ 0 a v (Nat.zero_le a) ha hv (by simp [Memory.erase])
      (Memory.wfFrom_erase m 0 0 a le_rfl h)

/-! ### Special addresses -/

theorem backingAt_setBacking (l : List (Nat × Backing)) (a c : Nat) (b : Backing) :
    backingAt (setBacking l a b) c = if c = a then (backingAt l a).map (fun _ => b) else backingAt l c := by
  induction l with
  | nil => simp [setBacking, backingAt]
  | cons e l ih =>
    obtain ⟨k, e⟩ := e
    simp only [setBacking, List.map_cons] at ih ⊢
    by_cases hk : k = a
    · subst hk
      simp only [if_true, backingAt, ih]
      split <;> simp_all
    · simp only [hk, if_false, backingAt, ih]
      by_cases hc : c = k
      · subst hc; simp [hk]
      · simp only [hc, if_false]
        split
        · rw [if_neg (fun e => hk e.symm)]
        · rfl

theorem specialWfFrom_setBacking (l : List (Nat × Backing)) (lo a : Nat) (b : Backing)
    (h : specialWfFrom lo l = true) : specialWfFrom lo (setBacking l a b) = true := by
  induction l generalizing lo with
  | nil => rfl
  | cons e l ih =>
    obtain ⟨k, e⟩ := e
    simp only [specialWfFrom, Bool.and_eq_true, decide_eq_true_eq] at h
    simp only [setBacking, List.map_cons] at ih ⊢
    split <;> simp only [specialWfFrom, Bool.and_eq_true, decide_eq_true_eq] <;> exact ⟨h.1, ih _ h.2⟩

theorem backingAt_mem {l : List (Nat × Backing)} {a : Nat} {b : Backing} (h : backingAt l a = some b) :
    (a, b) ∈ l := by
  induction l with
  | nil => simp [backingAt] at h
  | cons e l ih =>
    obtain ⟨k, e⟩ := e
    simp only [backingAt] at h
    split at h
    · rename_i hk; cases h; simp [hk]
    · simp [ih h]

/-! ### Fields of the Bus under its updates -/

@[simp] theorem Bus.log_mem (b : Bus) (call : BusCall) : (b.log call).mem = b.mem := rfl
@[simp] theorem Bus.log_special (b : Bus) (call : BusCall) : (b.log call).special = b.special := rfl
@[simp] theorem Bus.log_calls (b : Bus) (call : BusCall) : (b.log call).calls = b.calls ++ [call] := rfl
@[simp] theorem Bus.log_peek (b : Bus) (call : BusCall) (a : Word) : (b.log call).peek a = b.peek a := rfl
@[simp] theorem Bus.log_backing (b : Bus) (call : BusCall) (a : Word) : (b.log call).backing a = b.backing a := rfl

/-! ### Everything one call can do -/

/-- The answer of a device to its next call. -/
theorem Bus.read_cases {b b' : Bus} {a : Word} {v : Byte} (h : b.read a = .ok (v, b')) :
    ((b.backing a = none ∨ b.backing a = some .rom) ∧ v = b.peek a ∧ b' = b.log (.read a v)) ∨
    ∃ script idle rest, b.backing a = some (.device script idle) ∧ nextReply script idle = (.value v, rest) ∧
      b' = { b with special := setBacking b.special a.toNat (.device rest idle) }.log (.read a v) := by
  unfold Bus.read at h
  split at h
  · rename_i hb; cases h; exact .inl ⟨.inl hb, rfl, rfl⟩
  · rename_i hb; cases h; exact .inl ⟨.inr hb, rfl, rfl⟩
  · rename_i script idle hb
    split at h
    · cases h
    · rename_i w rest hr; cases h; exact .inr ⟨script, idle, rest, hb, hr, rfl⟩

theorem Bus.write_cases {b b' : Bus} {a : Word} {v : Byte} (h : b.write a v = .ok b') :
    (b.backing a = none ∧ b' = { b with mem := b.mem.write a.toNat v }.log (.write a v)) ∨
    (b.backing a = some .rom ∧ b' = b.log (.write a v)) ∨
    ∃ script idle rest w, b.backing a = some (.device script idle) ∧ nextReply script idle = (.value w, rest) ∧
      b' = { b with special := setBacking b.special a.toNat (.device rest idle) }.log (.write a v) := by
  unfold Bus.write at h
  split at h
  · rename_i hb; cases h; exact .inl ⟨hb, rfl⟩
  · rename_i hb; cases h; exact .inr (.inl ⟨hb, rfl⟩)
  · rename_i script idle hb
    split at h
    · cases h
    · rename_i w rest hr; cases h; exact .inr (.inr ⟨script, idle, rest, w, hb, hr, rfl⟩)

theorem Bus.read_ram {b : Bus} {a : Word} (h : b.isRam a) :
    b.read a = .ok (b.peek a, b.log (.read a (b.peek a))) := by
  unfold Bus.read; rw [show b.backing a = none from h]

theorem Bus.write_ram {b : Bus} {a : Word} (v : Byte) (h : b.isRam a) :
    b.write a v = .ok ({ b with mem := b.mem.write a.toNat v }.log (.write a v)) := by
  unfold Bus.write; rw [show b.backing a = none from h]

/-- A read changes no byte of memory. -/
theorem Bus.read_mem {b b' : Bus} {a : Word} {v : Byte} (h : b.read a = .ok (v, b')) : b'.mem = b.mem := by
  obtain ⟨-, -, rfl⟩ | ⟨_, _, _, -, -, rfl⟩ := Bus.read_cases h <;> rfl

/-- A read appends itself to the event history. -/
theorem Bus.read_calls {b b' : Bus} {a : Word} {v : Byte} (h : b.read a = .ok (v, b')) :
    b'.calls = b.calls ++ [.read a v] := by
  obtain ⟨-, -, rfl⟩ | ⟨_, _, _, -, -, rfl⟩ := Bus.read_cases h <;> rfl

/-- A write appends itself to the event history. -/
theorem Bus.write_calls {b b' : Bus} {a : Word} {v : Byte} (h : b.write a v = .ok b') :
    b'.calls = b.calls ++ [.write a v] := by
  obtain ⟨-, rfl⟩ | ⟨-, rfl⟩ | ⟨_, _, _, _, -, -, rfl⟩ := Bus.write_cases h <;> rfl

theorem Word.toNat_ne {a c : Word} (h : c ≠ a) : c.toNat ≠ a.toNat := fun e => h (BitVec.eq_of_toNat_eq e)

/-- A write changes no byte of memory at another address. -/
theorem Bus.write_peek_other {b b' : Bus} {a c : Word} {v : Byte} (h : b.write a v = .ok b') (hc : c ≠ a) :
    b'.peek c = b.peek c := by
  obtain ⟨-, rfl⟩ | ⟨-, rfl⟩ | ⟨_, _, _, _, -, -, rfl⟩ := Bus.write_cases h
  · simp [Bus.peek, Bus.log, Memory.read_write, Word.toNat_ne hc]
  · rfl
  · rfl

/-- A read leaves what backs every other address. -/
theorem Bus.read_backing_other {b b' : Bus} {a c : Word} {v : Byte} (h : b.read a = .ok (v, b')) (hc : c ≠ a) :
    b'.backing c = b.backing c := by
  obtain ⟨-, -, rfl⟩ | ⟨_, _, _, -, -, rfl⟩ := Bus.read_cases h
  · rfl
  · simp [Bus.backing, Bus.log, backingAt_setBacking, Word.toNat_ne hc]

theorem Bus.write_backing_other {b b' : Bus} {a c : Word} {v : Byte} (h : b.write a v = .ok b') (hc : c ≠ a) :
    b'.backing c = b.backing c := by
  obtain ⟨-, rfl⟩ | ⟨-, rfl⟩ | ⟨_, _, _, _, -, -, rfl⟩ := Bus.write_cases h
  · rfl
  · rfl
  · simp [Bus.backing, Bus.log, backingAt_setBacking, Word.toNat_ne hc]

/-- Plain RAM and ROM stay what they are under a read. -/
theorem Bus.read_isRam {b b' : Bus} {a c : Word} {v : Byte} (h : b.read a = .ok (v, b')) (hc : b.isRam c) :
    b'.isRam c := by
  obtain ⟨-, -, rfl⟩ | ⟨_, _, _, hb, -, rfl⟩ := Bus.read_cases h
  · exact hc
  · by_cases e : c = a
    · subst e; rw [Bus.isRam, hb] at hc; cases hc
    · simpa [Bus.isRam, Bus.backing, Bus.log, backingAt_setBacking, Word.toNat_ne e] using hc

theorem Bus.write_isRam {b b' : Bus} {a c : Word} {v : Byte} (h : b.write a v = .ok b') (hc : b.isRam c) :
    b'.isRam c := by
  obtain ⟨-, rfl⟩ | ⟨-, rfl⟩ | ⟨_, _, _, _, hb, -, rfl⟩ := Bus.write_cases h
  · exact hc
  · exact hc
  · by_cases e : c = a
    · subst e; rw [Bus.isRam, hb] at hc; cases hc
    · simpa [Bus.isRam, Bus.backing, Bus.log, backingAt_setBacking, Word.toNat_ne e] using hc

/-! ### The canonical form and the contract are kept by every call -/

theorem Bus.wf_iff (b : Bus) : b.wf = true ↔ b.mem.wf = true ∧ specialWfFrom 0 b.special = true := by
  simp [Bus.wf]

/-- A read keeps the canonical form of the Bus. -/
theorem Bus.wf_read {b b' : Bus} {a : Word} {v : Byte} (h : b.read a = .ok (v, b')) (hw : b.wf = true) :
    b'.wf = true := by
  rw [Bus.wf_iff] at *
  obtain ⟨-, -, rfl⟩ | ⟨_, _, _, -, -, rfl⟩ := Bus.read_cases h
  · exact hw
  · exact ⟨hw.1, specialWfFrom_setBacking _ _ _ _ hw.2⟩

/-- A write keeps the canonical form of the Bus. -/
theorem Bus.wf_write {b b' : Bus} {a : Word} {v : Byte} (h : b.write a v = .ok b') (hw : b.wf = true) :
    b'.wf = true := by
  rw [Bus.wf_iff] at *
  obtain ⟨-, rfl⟩ | ⟨-, rfl⟩ | ⟨_, _, _, _, -, -, rfl⟩ := Bus.write_cases h
  · exact ⟨Memory.wf_write _ _ _ a.isLt hw.1, hw.2⟩
  · exact hw
  · exact ⟨hw.1, specialWfFrom_setBacking _ _ _ _ hw.2⟩

/-- The host's loader keeps the canonical form of the memory. -/
theorem Bus.load_mem_wf (b : Bus) (a : Word) (v : Byte) (h : b.mem.wf = true) : (b.load a v).mem.wf = true :=
  Memory.wf_write _ _ _ a.isLt h

theorem nextReply_value {script : List Reply} {idle : Reply} (h : (Backing.device script idle).neverFails = true) :
    ∃ v rest, nextReply script idle = (.value v, rest) ∧ (Backing.device rest idle).neverFails = true := by
  simp only [Backing.neverFails, Bool.and_eq_true] at h
  cases script with
  | nil =>
    cases idle with
    | value v => exact ⟨v, [], rfl, rfl⟩
    | failure e => cases h.2
  | cons r script =>
    simp only [List.all_cons, Bool.and_eq_true] at h
    cases r with
    | value v => exact ⟨v, script, rfl, by simp [Backing.neverFails, h.1.2, h.2]⟩
    | failure e => cases h.1.1

theorem setBacking_neverFails {l : List (Nat × Backing)} {a : Nat} {b : Backing}
    (h : l.all (fun e => e.2.neverFails) = true) (hb : b.neverFails = true) :
    (setBacking l a b).all (fun e => e.2.neverFails) = true := by
  simp only [setBacking, List.all_map, List.all_eq_true, Function.comp] at *
  intro e he
  split
  · exact hb
  · exact h e he

theorem Bus.backing_neverFails {b : Bus} {a : Word} {k : Backing} (h : b.neverFails = true)
    (hk : b.backing a = some k) : k.neverFails = true := by
  simp only [Bus.neverFails, List.all_eq_true] at h
  exact h _ (backingAt_mem hk)

/-- On a Bus that keeps its contract every read is answered, and the contract still holds (R42). -/
theorem Bus.read_total {b : Bus} (a : Word) (h : b.neverFails = true) :
    ∃ v b', b.read a = .ok (v, b') ∧ b'.neverFails = true := by
  unfold Bus.read
  split
  · exact ⟨_, _, rfl, h⟩
  · exact ⟨_, _, rfl, h⟩
  · rename_i script idle hb
    obtain ⟨v, rest, hr, hn⟩ := nextReply_value (Bus.backing_neverFails h hb)
    simp only [hr]
    exact ⟨_, _, rfl, setBacking_neverFails h hn⟩

/-- On a Bus that keeps its contract every write is taken, and the contract still holds (R42). -/
theorem Bus.write_total {b : Bus} (a : Word) (v : Byte) (h : b.neverFails = true) :
    ∃ b', b.write a v = .ok b' ∧ b'.neverFails = true := by
  unfold Bus.write
  split
  · exact ⟨_, rfl, h⟩
  · exact ⟨_, rfl, h⟩
  · rename_i script idle hb
    obtain ⟨w, rest, hr, hn⟩ := nextReply_value (Bus.backing_neverFails h hb)
    simp only [hr]
    exact ⟨_, rfl, setBacking_neverFails h hn⟩

end Sys2Proof.Machine
end

