-- ==== Sys2Proof/Laws/Exec.lean ====
section
/-! SUPPORT. What an instruction can do, said once, on any Bus and from it on the Bus of `State`: `exec` is `execOn` there,
and an instruction that completes made its Bus calls in order and changed what the spec names. -/

namespace Sys2Proof.Machine

/-- What a read-modify-write form computes from the byte read and F; `none` for BIT. -/
def computed : Shape → Option (Byte → Byte → Computed)
  | .shift k _ _ _ =>
    let fn := match k with
      | .rlc => rlcFn
      | .rrc => rrcFn
      | .rl => rlFn
      | .rr => rrFn
      | .sla => slaFn
      | .sra => sraFn
      | .sll => sllFn
      | .srl => srlFn
    some (fun v f => { res := (fn v (flagOf f .c)).1
                       flags := some (shiftFlags (fn v (flagOf f .c)).1 (fn v (flagOf f .c)).2) })
  | .bit _ _ _ _ => none
  | .res _ b _ _ => some (fun v _ => { res := resFn b v, flags := none })
  | .set _ b _ _ => some (fun v _ => { res := setFn b v, flags := none })

/-- The bit number of a BIT form. -/
def testedBit : Shape → BitVec 3
  | .bit _ b _ _ => b
  | .shift _ _ _ _ => 0
  | .res _ b _ _ => b
  | .set _ b _ _ => b

/-- The handler of a form is one of the two shared bodies. -/
theorem handlerOf_eq (p : Shape) : handlerOf p = match computed p with
    | some op => rmwInd p.cost (copyTarget p) p.disp op
    | none => bitInd (testedBit p) p.disp := by
  cases p with
  | shift k _ _ _ => cases k <;> rfl
  | bit => rfl
  | res => rfl
  | set => rfl

/-- Every arm of `exec` is `execOn` on the Bus of `State` (R41). -/
theorem exec_eq_execOn (i : Instr) (s : State) : exec i s = mapNext State.join (execOn Bus.interface i s.split) := by
  cases i <;> rfl

/-- CORE after a read-modify-write instruction. -/
def rmwCore (p : Shape) (c : Computed) (s : CoreState) : CoreState :=
  (((s.enter p.index).save (copyTarget p) c.res).writeFlags c.flags).complete p.cost

/-- CORE after BIT. -/
def bitCore (p : Shape) (v : Byte) (s : CoreState) : CoreState :=
  ((s.enter p.index).setFlags
    (bitFlags (v &&& bitMask (testedBit p)) (resolveIndexed (s.index p.index) p.disp) s.flags)).complete p.cost

theorem Instr.ea_eq (i : Instr) (s : State) : i.ea s = i.eaOf s.toCoreState := rfl

/-- What a read-modify-write instruction does on any Bus, and when. -/
theorem execOn_rmw {BusState : Type} (B : BusInterface BusState) {i : Instr} {op : Byte → Byte → Computed}
    (h : computed i.toShape = some op) (c : CoreState) (b : BusState) :
    execOn B i (c, b) = match B.read b (i.eaOf c) with
      | .error e => busFailed e
      | .ok (v, b1) =>
        match B.write b1 (i.eaOf c) (op v c.flags).res with
        | .error e => busFailed e
        | .ok b2 => .next (rmwCore i.toShape (op v c.flags) c, b2) := by
  simp only [execOn, runHandlerOn, handlerOf_eq, h, rmwInd, Access.run, CoreState.enter_ea, CoreState.enter_flags, Instr.eaOf]
  rcases B.read b (resolveIndexed (c.index i.toShape.index) i.toShape.disp) with e | ⟨v, b1⟩
  · rfl
  · dsimp only
    rcases B.write b1 (resolveIndexed (c.index i.toShape.index) i.toShape.disp) (op v c.flags).res with e | b2 <;> rfl

/-- What BIT does on any Bus, and when. -/
theorem execOn_bit {BusState : Type} (B : BusInterface BusState) {i : Instr} (h : computed i.toShape = none)
    (c : CoreState) (b : BusState) :
    execOn B i (c, b) = match B.read b (i.eaOf c) with
      | .error e => busFailed e
      | .ok (v, b1) => .next (bitCore i.toShape v c, b1) := by
  have hc : i.toShape.cost = Config.costBit := by
    cases hp : i.toShape <;> rw [hp] at h <;> first | rfl | cases h
  simp only [execOn, runHandlerOn, handlerOf_eq, h, bitInd, Access.run, CoreState.enter_ea, CoreState.enter_flags, Instr.eaOf,
    bitCore, hc]
  rcases B.read b (resolveIndexed (c.index i.toShape.index) i.toShape.disp) with e | ⟨v, b1⟩ <;> rfl

/-- The state a read-modify-write instruction leaves. -/
def rmwNext (p : Shape) (c : Computed) (b : Bus) (s : State) : State := State.join (rmwCore p c s.toCoreState, b)

/-- The state BIT leaves. -/
def bitNext (p : Shape) (v : Byte) (b : Bus) (s : State) : State := State.join (bitCore p v s.toCoreState, b)

/-- What a read-modify-write instruction does, and when. -/
theorem exec_rmw {i : Instr} {op : Byte → Byte → Computed} (h : computed i.toShape = some op) (s : State) :
    exec i s = match s.bus.read (i.ea s) with
      | .error e => busFailed e
      | .ok (v, b1) =>
        match b1.write (i.ea s) (op v s.flags).res with
        | .error e => busFailed e
        | .ok b2 => .next (rmwNext i.toShape (op v s.flags) b2 s) := by
  rw [exec_eq_execOn, State.split, execOn_rmw _ h, ← Instr.ea_eq]
  simp only [Bus.interface]
  rcases s.bus.read (i.ea s) with e | ⟨v, b1⟩
  · rfl
  · dsimp only
    rcases b1.write (i.ea s) (op v s.flags).res with e | b2 <;> rfl

/-- What BIT does, and when. -/
theorem exec_bit {i : Instr} (h : computed i.toShape = none) (s : State) :
    exec i s = match s.bus.read (i.ea s) with
      | .error e => busFailed e
      | .ok (v, b1) => .next (bitNext i.toShape v b1 s) := by
  rw [exec_eq_execOn, State.split, execOn_bit _ h, ← Instr.ea_eq]
  simp only [Bus.interface]
  rcases s.bus.read (i.ea s) with e | ⟨v, b1⟩ <;> rfl

/-- Everything an instruction that completes has done: its Bus calls succeeded and it left `rmwNext` or `bitNext`. -/
theorem exec_next {i : Instr} {s t : State} (h : exec i s = .next t) :
    ∃ v b1, s.bus.read (i.ea s) = .ok (v, b1) ∧
      ((computed i.toShape = none ∧ t = bitNext i.toShape v b1 s) ∨
        ∃ op b2, computed i.toShape = some op ∧ b1.write (i.ea s) (op v s.flags).res = .ok b2 ∧
          t = rmwNext i.toShape (op v s.flags) b2 s) := by
  rcases hc : computed i.toShape with _ | op
  · rw [exec_bit hc] at h
    rcases hr : s.bus.read (i.ea s) with e | ⟨v, b1⟩ <;> rw [hr] at h
    · cases h
    · cases h; exact ⟨v, b1, rfl, .inl ⟨rfl, rfl⟩⟩
  · rw [exec_rmw hc] at h
    rcases hr : s.bus.read (i.ea s) with e | ⟨v, b1⟩ <;> rw [hr] at h
    · cases h
    · rcases hw : b1.write (i.ea s) (op v s.flags).res with e | b2 <;> simp only [hw] at h
      · cases h
      · cases h; exact ⟨v, b1, rfl, .inr ⟨op, b2, rfl, hw, rfl⟩⟩

/-! ### The fields of the two next states -/

@[simp] theorem rmwNext_shadow (p c b s) : (rmwNext p c b s).shadow = s.shadow := by simp [rmwNext, rmwCore]
@[simp] theorem rmwNext_ix (p c b s) : (rmwNext p c b s).ix = s.ix := by simp [rmwNext, rmwCore]
@[simp] theorem rmwNext_iy (p c b s) : (rmwNext p c b s).iy = s.iy := by simp [rmwNext, rmwCore]
@[simp] theorem rmwNext_sp (p c b s) : (rmwNext p c b s).sp = s.sp := by simp [rmwNext, rmwCore]
@[simp] theorem rmwNext_pc (p c b s) : (rmwNext p c b s).pc = s.pc := by simp [rmwNext, rmwCore]
@[simp] theorem rmwNext_pfx (p c b s) : (rmwNext p c b s).pfx = .none := by simp [rmwNext, rmwCore]
@[simp] theorem rmwNext_intState (p c b s) : (rmwNext p c b s).intState = s.intState := by simp [rmwNext, rmwCore]
@[simp] theorem rmwNext_cyc (p c b s) : (rmwNext p c b s).cyc = s.cyc + p.cost := by simp [rmwNext, rmwCore]
@[simp] theorem rmwNext_bus (p c b s) : (rmwNext p c b s).bus = b := by simp [rmwNext, rmwCore]
theorem rmwNext_flags (p c b s) : (rmwNext p c b s).flags = c.flags.getD s.flags := by
  simp [rmwNext, rmwCore, CoreState.writeFlags_flags]
theorem rmwNext_reg_other (p c b s) {q : Reg8} (h : copyTarget p ≠ some q) : (rmwNext p c b s).reg q = s.reg q := by
  simp [rmwNext, rmwCore, CoreState.save_reg_other _ _ h]
theorem rmwNext_reg_target (p c b s) {q : Reg8} (h : copyTarget p = some q) : (rmwNext p c b s).reg q = c.res := by
  simp [rmwNext, rmwCore, h]

@[simp] theorem bitNext_shadow (p v b s) : (bitNext p v b s).shadow = s.shadow := by simp [bitNext, bitCore]
@[simp] theorem bitNext_ix (p v b s) : (bitNext p v b s).ix = s.ix := by simp [bitNext, bitCore]
@[simp] theorem bitNext_iy (p v b s) : (bitNext p v b s).iy = s.iy := by simp [bitNext, bitCore]
@[simp] theorem bitNext_sp (p v b s) : (bitNext p v b s).sp = s.sp := by simp [bitNext, bitCore]
@[simp] theorem bitNext_pc (p v b s) : (bitNext p v b s).pc = s.pc := by simp [bitNext, bitCore]
@[simp] theorem bitNext_pfx (p v b s) : (bitNext p v b s).pfx = .none := by simp [bitNext, bitCore]
@[simp] theorem bitNext_intState (p v b s) : (bitNext p v b s).intState = s.intState := by simp [bitNext, bitCore]
@[simp] theorem bitNext_cyc (p v b s) : (bitNext p v b s).cyc = s.cyc + p.cost := by simp [bitNext, bitCore]
@[simp] theorem bitNext_bus (p v b s) : (bitNext p v b s).bus = b := by simp [bitNext, bitCore]
theorem bitNext_flags (p v b s) : (bitNext p v b s).flags =
    bitFlags (v &&& bitMask (testedBit p)) (resolveIndexed (s.index p.index) p.disp) s.flags := by simp [bitNext, bitCore]
theorem bitNext_reg (p v b s) (q : Reg8) : (bitNext p v b s).reg q = s.reg q := by
  simp [bitNext, bitCore]

end Sys2Proof.Machine
end

