-- ==== Sys2Proof/Laws/Step.lean ====
section
/-! SUPPORT. What a step can do, said once: if it answers a next state, the Bus answered four reads at pc, those bytes
decode to an instruction, and the next state is what that instruction leaves. -/

namespace Sys2Proof.Machine

theorem fetchByte_ok {BusState : Type} {B : BusInterface BusState} {p q : CoreState × BusState} {v : Byte} :
    fetchByte B p = .ok (v, q) ↔
      ∃ b, B.read p.2 p.1.pc = .ok (v, b) ∧ q = ({ p.1 with pc := p.1.pc + 1#16 }, b) := by
  unfold fetchByte
  rcases B.read p.2 p.1.pc with e | ⟨w, b⟩
  · simp
  · simp only [Except.ok.injEq, Prod.mk.injEq]
    constructor
    · rintro ⟨rfl, rfl⟩; exact ⟨b, ⟨rfl, rfl⟩, rfl⟩
    · rintro ⟨b', ⟨rfl, rfl⟩, rfl⟩; exact ⟨rfl, rfl⟩

/-- CORE at EXECUTE: pc past the four bytes, the marker set (R62, R110). -/
def fetchedCore (c : CoreState) (x : Index) : CoreState := { c with pc := c.pc + 4#16, pfx := x.marker }

/-- The state at EXECUTE: four bytes read, pc past them, the marker set (R62, R110). -/
def fetchedState (s : State) (x : Index) (b : Bus) : State :=
  { s with pc := s.pc + 4#16, pfx := x.marker, bus := b }

theorem Index.byte_ne_cb (x : Index) : x.byte ≠ cbByte := by cases x <;> decide
theorem Index.byte_ne_ed (x : Index) : x.byte ≠ edByte := by cases x <;> decide

/-- Reading four bytes, as four reads. -/
theorem readBytesOn_four {BusState : Type} {B : BusInterface BusState} {b b4 : BusState} {a : Word}
    {bytes : List Byte} :
    readBytesOn B b a 4 = .ok (bytes, b4) ↔ ∃ v0 v1 v2 v3 b1 b2 b3, B.read b a = .ok (v0, b1) ∧
      B.read b1 (a + 1#16) = .ok (v1, b2) ∧ B.read b2 (a + 1#16 + 1#16) = .ok (v2, b3) ∧
      B.read b3 (a + 1#16 + 1#16 + 1#16) = .ok (v3, b4) ∧ bytes = [v0, v1, v2, v3] := by
  simp only [readBytesOn]
  rcases B.read b a with e | ⟨v0, b1⟩
  · simp
  rcases h1 : B.read b1 (a + 1#16) with e | ⟨v1, b2⟩
  · simp [h1]
  rcases h2 : B.read b2 (a + 1#16 + 1#16) with e | ⟨v2, b3⟩
  · simp [h1, h2]
  rcases h3 : B.read b3 (a + 1#16 + 1#16 + 1#16) with e | ⟨v3, b4'⟩
  · simp [h1, h2, h3]
  simp only [h1, h2, h3, Except.ok.injEq, Prod.mk.injEq]
  constructor
  · rintro ⟨rfl, rfl⟩; exact ⟨v0, v1, v2, v3, b1, b2, b3, ⟨rfl, rfl⟩, h1, h2, h3, rfl⟩
  · rintro ⟨w0, w1, w2, w3, c1, c2, c3, ⟨rfl, rfl⟩, e1, e2, e3, rfl⟩
    rw [h1] at e1; cases e1; rw [h2] at e2; cases e2; rw [h3] at e3; cases e3
    exact ⟨rfl, rfl⟩

/-- Reading four bytes from the Bus of `State`, as four reads. -/
theorem Bus.readBytes_four {b b4 : Bus} {a : Word} {bytes : List Byte} :
    b.readBytes a 4 = .ok (bytes, b4) ↔ ∃ v0 v1 v2 v3 b1 b2 b3, b.read a = .ok (v0, b1) ∧
      b1.read (a + 1#16) = .ok (v1, b2) ∧ b2.read (a + 1#16 + 1#16) = .ok (v2, b3) ∧
      b3.read (a + 1#16 + 1#16 + 1#16) = .ok (v3, b4) ∧ bytes = [v0, v1, v2, v3] := readBytesOn_four

theorem four_ones (a : Word) : a + 1#16 + 1#16 + 1#16 + 1#16 = a + 4#16 := by
  simp [BitVec.add_assoc]

/-- A fetch that selects an indexed-bit-operation read its four bytes at pc. -/
theorem select_bus_indexedBit {BusState : Type} {B : BusInterface BusState} {p q : CoreState × BusState} {x : Index}
    {d op : Byte} (h : select (busSource B) p = .ok (.indexedBit x d op, q)) :
    ∃ b4, readBytesOn B p.2 p.1.pc 4 = .ok ([x.byte, cbByte, d, op], b4) ∧ q = (fetchedCore p.1 x, b4) := by
  simp only [select, busSource] at h
  rcases h0 : fetchByte B p with e | ⟨v0, s1⟩ <;> simp only [h0] at h
  · cases h
  have key : ∀ y, v0 = Index.byte y → enterIndex (busSource B) y s1 = .ok (.indexedBit x d op, q) →
      ∃ b4, readBytesOn B p.2 p.1.pc 4 = .ok ([x.byte, cbByte, d, op], b4) ∧ q = (fetchedCore p.1 x, b4) := by
    intro y hv h
    obtain ⟨b1, r0, rfl⟩ := fetchByte_ok.1 h0
    simp only [enterIndex, busSource] at h
    split at h
    · cases h
    rename_i v1 s2 h1
    split at h
    · rename_i hcb
      simp only [fetchDisplacement] at h
      split at h
      · cases h
      rename_i d' s3 h2
      split at h
      · cases h
      rename_i op' s4 h3
      cases h
      obtain ⟨b2, r1, rfl⟩ := fetchByte_ok.1 h1
      obtain ⟨b3, r2, rfl⟩ := fetchByte_ok.1 h2
      obtain ⟨b4, r3, rfl⟩ := fetchByte_ok.1 h3
      refine ⟨b4, readBytesOn_four.2 ⟨_, _, _, _, _, _, _, r0, r1, r2, r3, by rw [hv, hcb]⟩, ?_⟩
      simp only [fetchedCore, CoreState.enter, four_ones]
    · cases h
  split at h
  · simp only [enterTable] at h
    split at h <;> cases h
  · split at h
    · simp only [enterTable] at h
      split at h <;> cases h
    · split at h
      · rename_i hv; exact key .ix hv h
      · split at h
        · rename_i hv; exact key .iy hv h
        · cases h

/-- Everything the fetch of an instruction has done, on any Bus. -/
theorem fetchInstr_instr {BusState : Type} {B : BusInterface BusState} {admitGk : Bool} {p q : CoreState × BusState}
    {i : Instr} (h : fetchInstr B admitGk p = .instr i q) :
    ∃ bytes b4, readBytesOn B p.2 p.1.pc 4 = .ok (bytes, b4) ∧ decodeWith admitGk bytes = .instr i [] ∧
      q = (fetchedCore p.1 i.toShape.index, b4) := by
  simp only [fetchInstr] at h
  rcases hs : select (busSource B) p with e | ⟨sel, q1⟩ <;> simp only [hs] at h
  · cases h
  rcases hl : lookup admitGk sel with _ | i <;> simp only [hl] at h
  · cases h
  cases h
  obtain ⟨x, d, op, rfl, rfl, hw⟩ := lookup_eq_some.1 hl
  obtain ⟨b4, hr, rfl⟩ := select_bus_indexedBit hs
  refine ⟨_, b4, hr, ?_, by simp⟩
  simp only [decodeWith, select_list_indexedBit.2 rfl, hl]

/-- `stepWith` is `stepOn` on the Bus of `State` (R41). -/
theorem stepWith_eq_stepOn (admitGk : Bool) (s : State) :
    stepWith admitGk s = mapNext State.join (stepOn Bus.interface admitGk s.split) := by
  unfold stepWith stepOn
  rcases fetchInstr Bus.interface admitGk s.split with ⟨i, q⟩ | ⟨c, op⟩ | e
  · exact exec_eq_execOn i (State.join q)
  · rfl
  · rfl

/-- Everything a step that completes has done. -/
theorem stepWith_next {admitGk : Bool} {s t : State} (h : stepWith admitGk s = .next t) :
    ∃ bytes b4 i, s.bus.readBytes s.pc 4 = .ok (bytes, b4) ∧ decodeWith admitGk bytes = .instr i [] ∧
      exec i (fetchedState s i.toShape.index b4) = .next t := by
  unfold stepWith at h
  rcases hf : fetchInstr Bus.interface admitGk s.split with ⟨i, q⟩ | ⟨c, op⟩ | e <;> simp only [hf] at h
  · obtain ⟨bytes, b4, hr, hd, rfl⟩ := fetchInstr_instr hf
    exact ⟨bytes, b4, i, hr, hd, h⟩
  · cases h
  · cases h

end Sys2Proof.Machine
end

