-- ==== Sys2Proof/Laws/AnyBus.lean ====
section
/-! SUPPORT. A step of CORE as one computation by its Bus calls (R41, R50), so that a fact about every step on two Buses is
an induction over `Access`; and the two such facts the model rests on: plain RAM of `State` is the flat RAM, and what
any Bus answers can be answered by devices of `State` (log 7). -/

namespace Sys2Proof.Machine

/-- One computation, then another that takes its result. -/
def Access.bind {α β : Type} : Access α → (α → Access β) → Access β
  | .done x, f => f x
  | .read a k, f => .read a (fun v => Access.bind (k v) f)
  | .write a v k, f => .write a v (Access.bind k f)

theorem Access.run_bind {BusState α β : Type} (B : BusInterface BusState) (m : Access α) (f : α → Access β) :
    ∀ b, (m.bind f).run B b = match m.run B b with
      | .error e => .error e
      | .ok (x, b1) => (f x).run B b1 := by
  induction m with
  | done x => intro b; rfl
  | read a k ih =>
    intro b
    simp only [Access.bind, Access.run]
    rcases B.read b a with e | ⟨v, b1⟩
    · rfl
    · exact ih v b1
  | write a v k ih =>
    intro b
    simp only [Access.bind, Access.run]
    rcases B.write b a v with e | b1
    · rfl
    · exact ih b1

/-! ### The fetch and the step as computations -/

/-- ENTER_DD and ENTER_FD as a computation. -/
def indexAccess (x : Index) (c : CoreState) : Access (Selected × CoreState) :=
  .read c.pc (fun b1 =>
    if b1 = cbByte then
      .read (c.pc + 1#16) (fun d => .read (c.pc + 1#16 + 1#16) (fun op =>
        .done (.indexedBit x d op, { c with pfx := x.marker, pc := c.pc + 1#16 + 1#16 + 1#16 })))
    else .done (.direct x.context b1, { c with pfx := x.marker, pc := c.pc + 1#16 }))

/-- ENTER_CB and ENTER_ED as a computation. -/
def tableAccess (k : Context) (c : CoreState) : Access (Selected × CoreState) :=
  .read c.pc (fun op => .done (.direct k op, { c with pc := c.pc + 1#16 }))

/-- The dispatch state machine as a computation. -/
def selectAccess (c : CoreState) : Access (Selected × CoreState) :=
  .read c.pc (fun b0 =>
    if b0 = cbByte then tableAccess .cb { c with pc := c.pc + 1#16 }
    else if b0 = edByte then tableAccess .ed { c with pc := c.pc + 1#16 }
    else if b0 = Index.byte .ix then indexAccess .ix { c with pc := c.pc + 1#16 }
    else if b0 = Index.byte .iy then indexAccess .iy { c with pc := c.pc + 1#16 }
    else .done (.direct .none b0, { c with pc := c.pc + 1#16 }))

/-- The result of a computation, with CORE beside the Bus. -/
def besideBus {BusState α : Type} :
    Except BusError ((α × CoreState) × BusState) → Except BusError (α × (CoreState × BusState))
  | .error e => .error e
  | .ok ((x, c), b) => .ok (x, (c, b))

theorem enterTable_eq_access {BusState : Type} (B : BusInterface BusState) (k : Context) (c : CoreState) (b : BusState) :
    enterTable (busSource B) k (c, b) = besideBus ((tableAccess k c).run B b) := by
  simp only [enterTable, busSource, fetchByte, tableAccess, Access.run]
  rcases B.read b c.pc with e | ⟨v, b1⟩ <;> rfl

theorem enterIndex_eq_access {BusState : Type} (B : BusInterface BusState) (x : Index) (c : CoreState) (b : BusState) :
    enterIndex (busSource B) x (c, b) = besideBus ((indexAccess x c).run B b) := by
  simp only [enterIndex, busSource, fetchByte, indexAccess, Access.run, CoreState.enter]
  rcases B.read b c.pc with e | ⟨v, b1⟩
  · rfl
  dsimp only
  split
  · simp only [fetchDisplacement, fetchByte, Access.run]
    rcases B.read b1 (c.pc + 1#16) with e | ⟨v, b2⟩
    · rfl
    dsimp only
    rcases B.read b2 (c.pc + 1#16 + 1#16) with e | ⟨v, b3⟩ <;> rfl
  · rfl

theorem select_eq_access {BusState : Type} (B : BusInterface BusState) (c : CoreState) (b : BusState) :
    select (busSource B) (c, b) = besideBus ((selectAccess c).run B b) := by
  have h0 : (busSource B).next (c, b) = fetchByte B (c, b) := rfl
  simp only [select, selectAccess, Access.run, h0, fetchByte]
  rcases B.read b c.pc with e | ⟨v, b1⟩
  · rfl
  dsimp only
  split
  · exact enterTable_eq_access ..
  split
  · exact enterTable_eq_access ..
  split
  · exact enterIndex_eq_access ..
  split
  · exact enterIndex_eq_access ..
  · rfl

/-- A step as a computation: the refusal, or CORE after it. -/
def stepAccess (admitGk : Bool) (c : CoreState) : Access (Except Refusal CoreState) :=
  (selectAccess c).bind (fun q =>
    match lookup admitGk q.1 with
    | none => .done (.error (.unspecified q.1.context q.1.op))
    | some i => (handlerOf i.toShape (q.2.enter i.toShape.index)).bind (fun r => .done (.ok (r.2.complete r.1))))

/-- The outcome of a step from the result of its computation. -/
def stepOutcome {BusState : Type} :
    Except BusError (Except Refusal CoreState × BusState) → Host.Outcome (CoreState × BusState) Fault Refusal
  | .error e => busFailed e
  | .ok (.error r, _) => .refused r
  | .ok (.ok c, b) => .next (c, b)

theorem stepOn_eq_access {BusState : Type} (B : BusInterface BusState) (admitGk : Bool) (c : CoreState) (b : BusState) :
    stepOn B admitGk (c, b) = stepOutcome ((stepAccess admitGk c).run B b) := by
  simp only [stepOn, fetchInstr, stepAccess, Access.run_bind, select_eq_access]
  rcases (selectAccess c).run B b with e | ⟨⟨sel, c1⟩, b1⟩
  · rfl
  simp only [besideBus]
  rcases lookup admitGk sel with _ | i
  · rfl
  simp only [Access.run_bind, execOn, runHandlerOn]
  rcases (handlerOf i.toShape (c1.enter i.toShape.index)).run B b1 with e | ⟨⟨n, c2⟩, b2⟩ <;> rfl

/-! ### The flat RAM -/

theorem Bus.isRam_of_plain {b : Bus} (h : b.special = []) (a : Word) : b.isRam a := by
  simp [Bus.isRam, Bus.backing, h, backingAt]

/-- A write to plain RAM, with memory as a function of the address. -/
theorem Bus.write_plain {b : Bus} (h : b.special = []) (a : Word) (v : Byte) :
    ∃ b', b.write a v = .ok b' ∧ b'.special = [] ∧ b'.peek = fun c => if c = a then v else b.peek c := by
  refine ⟨_, Bus.write_ram v (isRam_of_plain h a), h, ?_⟩
  funext c
  show (b.mem.write a.toNat v).read c.toNat = if c = a then v else b.mem.read c.toNat
  rw [Memory.read_write]
  by_cases hc : c = a
  · simp [hc]
  · simp [hc, Word.toNat_ne hc]

/-- A computation on plain RAM of `State` is that computation on the flat RAM of R41. -/
theorem Access.run_flatRam {α : Type} (m : Access α) : ∀ b : Bus, b.special = [] →
    match m.run Bus.interface b with
    | .error e => m.run .flatRam b.peek = .error e
    | .ok (x, b') => b'.special = [] ∧ m.run .flatRam b.peek = .ok (x, b'.peek) := by
  induction m with
  | done x => intro b h; exact ⟨h, rfl⟩
  | read a k ih =>
    intro b h
    simp only [Access.run, Bus.interface, Bus.read_ram (Bus.isRam_of_plain h a), BusInterface.flatRam]
    exact ih _ _ h
  | write a v k ih =>
    intro b h
    obtain ⟨b', hw, hs, hp⟩ := Bus.write_plain h a v
    simp only [Access.run, Bus.interface, hw, BusInterface.flatRam, ← hp]
    exact ih _ hs

/-! ### Any Bus, answered by devices -/

/-- The addresses from `lo` on, each backed by a device with its own script. -/
def deviceTable (f : Nat → List Reply) (lo n : Nat) : List (Nat × Backing) :=
  (List.range' lo n).map (fun a => (a, .device (f a) (.value 0#8)))

theorem deviceTable_wf (f : Nat → List Reply) :
    ∀ n lo, lo + n ≤ 0x10000 → specialWfFrom lo (deviceTable f lo n) = true := by
  intro n
  induction n with
  | zero => intros; rfl
  | succ n ih =>
    intro lo h
    have := ih (lo + 1) (by omega)
    simp only [deviceTable] at this
    simp only [deviceTable, List.range'_succ, List.map_cons, specialWfFrom, this]
    simp
    omega

theorem backingAt_deviceTable (f : Nat → List Reply) :
    ∀ n lo a, lo ≤ a → a < lo + n → backingAt (deviceTable f lo n) a = some (.device (f a) (.value 0#8)) := by
  intro n
  induction n with
  | zero => intros; omega
  | succ n ih =>
    intro lo a h1 h2
    simp only [deviceTable, List.range'_succ, List.map_cons, backingAt]
    split
    · rename_i h; rw [h]
    · exact ih (lo + 1) a (by omega) (by omega)

theorem setBacking_deviceTable (f : Nat → List Reply) (lo n a : Nat) (r : List Reply) :
    setBacking (deviceTable f lo n) a (.device r (.value 0#8)) =
      deviceTable (fun c => if c = a then r else f c) lo n := by
  simp only [setBacking, deviceTable, List.map_map]
  apply List.map_congr_left
  intro c _
  simp only [Function.comp]
  split <;> rfl

/-- The replies of a trace at one address, in order. -/
def repliesAt (trace : List (Nat × Reply)) (a : Nat) : List Reply := (trace.filter (fun p => p.1 = a)).map (·.2)

/-- The Bus that answers a trace of calls. -/
def traceBus (trace : List (Nat × Reply)) (calls : List BusCall) : Bus :=
  { mem := [], special := deviceTable (repliesAt trace) 0 0x10000, calls := calls }

theorem traceBus_wf (trace : List (Nat × Reply)) (calls : List BusCall) : (traceBus trace calls).wf = true := by
  simp only [Bus.wf, Bool.and_eq_true]
  exact ⟨rfl, deviceTable_wf _ _ _ (by omega)⟩

theorem traceBus_backing (trace : List (Nat × Reply)) (calls : List BusCall) (a : Word) :
    (traceBus trace calls).backing a = some (.device (repliesAt trace a.toNat) (.value 0#8)) :=
  backingAt_deviceTable _ _ _ _ (Nat.zero_le _) (by have := a.isLt; omega)

theorem repliesAt_cons_same (a : Nat) (r : Reply) (trace : List (Nat × Reply)) :
    repliesAt ((a, r) :: trace) a = r :: repliesAt trace a := by simp [repliesAt]

theorem traceBus_answered (trace : List (Nat × Reply)) (calls : List BusCall) (a : Nat) (r : Reply) :
    setBacking (traceBus ((a, r) :: trace) calls).special a (.device (repliesAt trace a) (.value 0#8)) =
      (traceBus trace calls).special := by
  simp only [traceBus, setBacking_deviceTable]
  congr 1
  funext c
  split
  · rename_i h; rw [h]
  · rename_i h; simp [repliesAt, Ne.symm h]

theorem traceBus_read (a : Word) (v : Byte) (trace : List (Nat × Reply)) (calls : List BusCall) :
    (traceBus ((a.toNat, .value v) :: trace) calls).read a = .ok (v, traceBus trace (calls ++ [.read a v])) := by
  unfold Bus.read
  rw [traceBus_backing, repliesAt_cons_same]
  simp only [nextReply, traceBus_answered]
  rfl

theorem traceBus_read_fails (a : Word) (e : BusError) (trace : List (Nat × Reply)) (calls : List BusCall) :
    (traceBus ((a.toNat, .failure e) :: trace) calls).read a = .error e := by
  unfold Bus.read
  rw [traceBus_backing, repliesAt_cons_same]
  rfl

theorem traceBus_write (a : Word) (v w : Byte) (trace : List (Nat × Reply)) (calls : List BusCall) :
    (traceBus ((a.toNat, .value w) :: trace) calls).write a v = .ok (traceBus trace (calls ++ [.write a v])) := by
  unfold Bus.write
  rw [traceBus_backing, repliesAt_cons_same]
  simp only [nextReply, traceBus_answered]
  rfl

theorem traceBus_write_fails (a : Word) (v : Byte) (e : BusError) (trace : List (Nat × Reply)) (calls : List BusCall) :
    (traceBus ((a.toNat, .failure e) :: trace) calls).write a v = .error e := by
  unfold Bus.write
  rw [traceBus_backing, repliesAt_cons_same]
  rfl

/-- What a computation makes of any Bus it makes of some trace of replies, whatever replies follow it. -/
theorem Access.run_traceBus {BusState α : Type} (B : BusInterface BusState) (m : Access α) :
    ∀ (b : BusState) (calls : List BusCall), ∃ trace, ∀ later,
      match m.run B.recorded (b, calls) with
      | .error e => m.run Bus.interface (traceBus (trace ++ later) calls) = .error e
      | .ok (x, (_, calls')) =>
        m.run Bus.interface (traceBus (trace ++ later) calls) = .ok (x, traceBus later calls') := by
  induction m with
  | done x => intro b calls; exact ⟨[], fun later => rfl⟩
  | read a k ih =>
    intro b calls
    rcases h : B.read b a with e | ⟨v, b1⟩
    · refine ⟨[(a.toNat, .failure e)], fun later => ?_⟩
      simp only [Access.run, BusInterface.recorded, h, Bus.interface, List.cons_append, List.nil_append,
        traceBus_read_fails]
    · obtain ⟨trace, ht⟩ := ih v b1 (calls ++ [.read a v])
      refine ⟨(a.toNat, .value v) :: trace, fun later => ?_⟩
      have := ht later
      simp only [Access.run, BusInterface.recorded, h, Bus.interface, List.cons_append, traceBus_read]
      exact this
  | write a v k ih =>
    intro b calls
    rcases h : B.write b a v with e | b1
    · refine ⟨[(a.toNat, .failure e)], fun later => ?_⟩
      simp only [Access.run, BusInterface.recorded, h, Bus.interface, List.cons_append, List.nil_append,
        traceBus_write_fails]
    · obtain ⟨trace, ht⟩ := ih b1 (calls ++ [.write a v])
      refine ⟨(a.toNat, .value 0#8) :: trace, fun later => ?_⟩
      have := ht later
      simp only [Access.run, BusInterface.recorded, h, Bus.interface, List.cons_append, traceBus_write]
      exact this

end Sys2Proof.Machine
end

