-- ==== Sys2Proof/Tests/Slice0.lean ====
section
/-! SUPPORT. The model's own tests. Expected values come from spec/: the opcode table's encodings, the worked examples of
files 41 to 44, and 95_test_vectors.md. Each test is one decode or one step. The witnesses at the end meet the
hypotheses of the statements. -/

namespace Sys2Proof.Tests

open Sys2Proof Sys2Proof.Machine

/-! ### WellFormed: the one check, admission (R4, R65, R70) -/

theorem test_wf_refuses_gk_row : Instr.wf false (.rlcIx 0x00#8) = false := by decide
theorem test_wf_refuses_gk_res : Instr.wf false (.resIyA 7#3 0x00#8) = false := by decide
theorem test_wf_admits_source_row : Instr.wf false (.rlIx 0x00#8) = true := by decide
theorem test_wf_admits_gk_row_when_on : WellFormed (.rlcIx 0x00#8) = true := by decide

/-! ### Every row of the opcode table, from a word written out from its encoding (R65, R66, R67) -/

/-- Every listed word decodes to its instruction. -/
def decodesAll (l : List (Nat × Instr)) : Bool := l.all (fun p => decide (decodeTableWord 32 p.1 = some p.2))

theorem test_decode_bit_ix : decodesAll [
    (0xDDCB9C6E, .bitIx 5#3 0x9C#8 6#3),
    (0xDDCB9C68, .bitIx 5#3 0x9C#8 0#3),
    (0xDDCB9C6F, .bitIx 5#3 0x9C#8 7#3)] = true := by decide

theorem test_decode_rl_ix : decodesAll [
    (0xDDCB9C10, .rlIxB 0x9C#8),
    (0xDDCB9C11, .rlIxC 0x9C#8),
    (0xDDCB9C12, .rlIxD 0x9C#8),
    (0xDDCB9C13, .rlIxE 0x9C#8),
    (0xDDCB9C14, .rlIxH 0x9C#8),
    (0xDDCB9C15, .rlIxL 0x9C#8),
    (0xDDCB9C16, .rlIx 0x9C#8),
    (0xDDCB9C17, .rlIxA 0x9C#8)] = true := by decide

theorem test_decode_sra_ix : decodesAll [
    (0xDDCB9C28, .sraIxB 0x9C#8),
    (0xDDCB9C29, .sraIxC 0x9C#8),
    (0xDDCB9C2A, .sraIxD 0x9C#8),
    (0xDDCB9C2B, .sraIxE 0x9C#8),
    (0xDDCB9C2C, .sraIxH 0x9C#8),
    (0xDDCB9C2D, .sraIxL 0x9C#8),
    (0xDDCB9C2E, .sraIx 0x9C#8),
    (0xDDCB9C2F, .sraIxA 0x9C#8)] = true := by decide

theorem test_decode_set_ix : decodesAll [
    (0xDDCB9CC8, .setIxB 1#3 0x9C#8),
    (0xDDCB9CE1, .setIxC 4#3 0x9C#8),
    (0xDDCB9CFA, .setIxD 7#3 0x9C#8),
    (0xDDCB9CD3, .setIxE 2#3 0x9C#8),
    (0xDDCB9CEC, .setIxH 5#3 0x9C#8),
    (0xDDCB9CC5, .setIxL 0#3 0x9C#8),
    (0xDDCB9CDE, .setIx 3#3 0x9C#8),
    (0xDDCB9CF7, .setIxA 6#3 0x9C#8)] = true := by decide

theorem test_decode_rlc_ix : decodesAll [
    (0xDDCB9C00, .rlcIxB 0x9C#8),
    (0xDDCB9C01, .rlcIxC 0x9C#8),
    (0xDDCB9C02, .rlcIxD 0x9C#8),
    (0xDDCB9C03, .rlcIxE 0x9C#8),
    (0xDDCB9C04, .rlcIxH 0x9C#8),
    (0xDDCB9C05, .rlcIxL 0x9C#8),
    (0xDDCB9C06, .rlcIx 0x9C#8),
    (0xDDCB9C07, .rlcIxA 0x9C#8)] = true := by decide

theorem test_decode_rrc_ix : decodesAll [
    (0xDDCB9C08, .rrcIxB 0x9C#8),
    (0xDDCB9C09, .rrcIxC 0x9C#8),
    (0xDDCB9C0A, .rrcIxD 0x9C#8),
    (0xDDCB9C0B, .rrcIxE 0x9C#8),
    (0xDDCB9C0C, .rrcIxH 0x9C#8),
    (0xDDCB9C0D, .rrcIxL 0x9C#8),
    (0xDDCB9C0E, .rrcIx 0x9C#8),
    (0xDDCB9C0F, .rrcIxA 0x9C#8)] = true := by decide

theorem test_decode_rr_ix : decodesAll [
    (0xDDCB9C18, .rrIxB 0x9C#8),
    (0xDDCB9C19, .rrIxC 0x9C#8),
    (0xDDCB9C1A, .rrIxD 0x9C#8),
    (0xDDCB9C1B, .rrIxE 0x9C#8),
    (0xDDCB9C1C, .rrIxH 0x9C#8),
    (0xDDCB9C1D, .rrIxL 0x9C#8),
    (0xDDCB9C1E, .rrIx 0x9C#8),
    (0xDDCB9C1F, .rrIxA 0x9C#8)] = true := by decide

theorem test_decode_sla_ix : decodesAll [
    (0xDDCB9C20, .slaIxB 0x9C#8),
    (0xDDCB9C21, .slaIxC 0x9C#8),
    (0xDDCB9C22, .slaIxD 0x9C#8),
    (0xDDCB9C23, .slaIxE 0x9C#8),
    (0xDDCB9C24, .slaIxH 0x9C#8),
    (0xDDCB9C25, .slaIxL 0x9C#8),
    (0xDDCB9C26, .slaIx 0x9C#8),
    (0xDDCB9C27, .slaIxA 0x9C#8)] = true := by decide

theorem test_decode_sll_ix : decodesAll [
    (0xDDCB9C30, .sllIxB 0x9C#8),
    (0xDDCB9C31, .sllIxC 0x9C#8),
    (0xDDCB9C32, .sllIxD 0x9C#8),
    (0xDDCB9C33, .sllIxE 0x9C#8),
    (0xDDCB9C34, .sllIxH 0x9C#8),
    (0xDDCB9C35, .sllIxL 0x9C#8),
    (0xDDCB9C36, .sllIx 0x9C#8),
    (0xDDCB9C37, .sllIxA 0x9C#8)] = true := by decide

theorem test_decode_srl_ix : decodesAll [
    (0xDDCB9C38, .srlIxB 0x9C#8),
    (0xDDCB9C39, .srlIxC 0x9C#8),
    (0xDDCB9C3A, .srlIxD 0x9C#8),
    (0xDDCB9C3B, .srlIxE 0x9C#8),
    (0xDDCB9C3C, .srlIxH 0x9C#8),
    (0xDDCB9C3D, .srlIxL 0x9C#8),
    (0xDDCB9C3E, .srlIx 0x9C#8),
    (0xDDCB9C3F, .srlIxA 0x9C#8)] = true := by decide

theorem test_decode_res_ix : decodesAll [
    (0xDDCB9C88, .resIxB 1#3 0x9C#8),
    (0xDDCB9CA1, .resIxC 4#3 0x9C#8),
    (0xDDCB9CBA, .resIxD 7#3 0x9C#8),
    (0xDDCB9C93, .resIxE 2#3 0x9C#8),
    (0xDDCB9CAC, .resIxH 5#3 0x9C#8),
    (0xDDCB9C85, .resIxL 0#3 0x9C#8),
    (0xDDCB9C9E, .resIx 3#3 0x9C#8),
    (0xDDCB9CB7, .resIxA 6#3 0x9C#8)] = true := by decide

theorem test_decode_bit_iy : decodesAll [
    (0xFDCB9C6E, .bitIy 5#3 0x9C#8 6#3),
    (0xFDCB9C68, .bitIy 5#3 0x9C#8 0#3),
    (0xFDCB9C6F, .bitIy 5#3 0x9C#8 7#3)] = true := by decide

theorem test_decode_rl_iy : decodesAll [
    (0xFDCB9C10, .rlIyB 0x9C#8),
    (0xFDCB9C11, .rlIyC 0x9C#8),
    (0xFDCB9C12, .rlIyD 0x9C#8),
    (0xFDCB9C13, .rlIyE 0x9C#8),
    (0xFDCB9C14, .rlIyH 0x9C#8),
    (0xFDCB9C15, .rlIyL 0x9C#8),
    (0xFDCB9C16, .rlIy 0x9C#8),
    (0xFDCB9C17, .rlIyA 0x9C#8)] = true := by decide

theorem test_decode_sra_iy : decodesAll [
    (0xFDCB9C28, .sraIyB 0x9C#8),
    (0xFDCB9C29, .sraIyC 0x9C#8),
    (0xFDCB9C2A, .sraIyD 0x9C#8),
    (0xFDCB9C2B, .sraIyE 0x9C#8),
    (0xFDCB9C2C, .sraIyH 0x9C#8),
    (0xFDCB9C2D, .sraIyL 0x9C#8),
    (0xFDCB9C2E, .sraIy 0x9C#8),
    (0xFDCB9C2F, .sraIyA 0x9C#8)] = true := by decide

theorem test_decode_set_iy : decodesAll [
    (0xFDCB9CC8, .setIyB 1#3 0x9C#8),
    (0xFDCB9CE1, .setIyC 4#3 0x9C#8),
    (0xFDCB9CFA, .setIyD 7#3 0x9C#8),
    (0xFDCB9CD3, .setIyE 2#3 0x9C#8),
    (0xFDCB9CEC, .setIyH 5#3 0x9C#8),
    (0xFDCB9CC5, .setIyL 0#3 0x9C#8),
    (0xFDCB9CDE, .setIy 3#3 0x9C#8),
    (0xFDCB9CF7, .setIyA 6#3 0x9C#8)] = true := by decide

theorem test_decode_rlc_iy : decodesAll [
    (0xFDCB9C00, .rlcIyB 0x9C#8),
    (0xFDCB9C01, .rlcIyC 0x9C#8),
    (0xFDCB9C02, .rlcIyD 0x9C#8),
    (0xFDCB9C03, .rlcIyE 0x9C#8),
    (0xFDCB9C04, .rlcIyH 0x9C#8),
    (0xFDCB9C05, .rlcIyL 0x9C#8),
    (0xFDCB9C06, .rlcIy 0x9C#8),
    (0xFDCB9C07, .rlcIyA 0x9C#8)] = true := by decide

theorem test_decode_rrc_iy : decodesAll [
    (0xFDCB9C08, .rrcIyB 0x9C#8),
    (0xFDCB9C09, .rrcIyC 0x9C#8),
    (0xFDCB9C0A, .rrcIyD 0x9C#8),
    (0xFDCB9C0B, .rrcIyE 0x9C#8),
    (0xFDCB9C0C, .rrcIyH 0x9C#8),
    (0xFDCB9C0D, .rrcIyL 0x9C#8),
    (0xFDCB9C0E, .rrcIy 0x9C#8),
    (0xFDCB9C0F, .rrcIyA 0x9C#8)] = true := by decide

theorem test_decode_rr_iy : decodesAll [
    (0xFDCB9C18, .rrIyB 0x9C#8),
    (0xFDCB9C19, .rrIyC 0x9C#8),
    (0xFDCB9C1A, .rrIyD 0x9C#8),
    (0xFDCB9C1B, .rrIyE 0x9C#8),
    (0xFDCB9C1C, .rrIyH 0x9C#8),
    (0xFDCB9C1D, .rrIyL 0x9C#8),
    (0xFDCB9C1E, .rrIy 0x9C#8),
    (0xFDCB9C1F, .rrIyA 0x9C#8)] = true := by decide

theorem test_decode_sla_iy : decodesAll [
    (0xFDCB9C20, .slaIyB 0x9C#8),
    (0xFDCB9C21, .slaIyC 0x9C#8),
    (0xFDCB9C22, .slaIyD 0x9C#8),
    (0xFDCB9C23, .slaIyE 0x9C#8),
    (0xFDCB9C24, .slaIyH 0x9C#8),
    (0xFDCB9C25, .slaIyL 0x9C#8),
    (0xFDCB9C26, .slaIy 0x9C#8),
    (0xFDCB9C27, .slaIyA 0x9C#8)] = true := by decide

theorem test_decode_sll_iy : decodesAll [
    (0xFDCB9C30, .sllIyB 0x9C#8),
    (0xFDCB9C31, .sllIyC 0x9C#8),
    (0xFDCB9C32, .sllIyD 0x9C#8),
    (0xFDCB9C33, .sllIyE 0x9C#8),
    (0xFDCB9C34, .sllIyH 0x9C#8),
    (0xFDCB9C35, .sllIyL 0x9C#8),
    (0xFDCB9C36, .sllIy 0x9C#8),
    (0xFDCB9C37, .sllIyA 0x9C#8)] = true := by decide

theorem test_decode_srl_iy : decodesAll [
    (0xFDCB9C38, .srlIyB 0x9C#8),
    (0xFDCB9C39, .srlIyC 0x9C#8),
    (0xFDCB9C3A, .srlIyD 0x9C#8),
    (0xFDCB9C3B, .srlIyE 0x9C#8),
    (0xFDCB9C3C, .srlIyH 0x9C#8),
    (0xFDCB9C3D, .srlIyL 0x9C#8),
    (0xFDCB9C3E, .srlIy 0x9C#8),
    (0xFDCB9C3F, .srlIyA 0x9C#8)] = true := by decide

theorem test_decode_res_iy : decodesAll [
    (0xFDCB9C88, .resIyB 1#3 0x9C#8),
    (0xFDCB9CA1, .resIyC 4#3 0x9C#8),
    (0xFDCB9CBA, .resIyD 7#3 0x9C#8),
    (0xFDCB9C93, .resIyE 2#3 0x9C#8),
    (0xFDCB9CAC, .resIyH 5#3 0x9C#8),
    (0xFDCB9C85, .resIyL 0#3 0x9C#8),
    (0xFDCB9C9E, .resIy 3#3 0x9C#8),
    (0xFDCB9CB7, .resIyA 6#3 0x9C#8)] = true := by decide

/-- Rows of file 44 are refused without ADMIT_GK_EXT (95_test_vectors.md section 2.7). -/
theorem test_decode_refuses_gk : decodeWith false [0xDD#8, 0xCB#8, 0x00#8, 0x06#8] = .unspecified .ddcb 0x06#8 [] := by
  decide
theorem test_decode_refuses_gk_res : decodeWith false [0xFD#8, 0xCB#8, 0x00#8, 0x86#8] = .unspecified .fdcb 0x86#8 [] := by
  decide
theorem test_decode_no_second_index_byte :
    decode [0xDD#8, 0xDD#8, 0xCB#8, 0x00#8, 0x46#8] = .unspecified .dd 0xDD#8 [0xCB#8, 0x00#8, 0x46#8] := by decide
theorem test_decode_truncated : decode [0xDD#8, 0xCB#8, 0x10#8] = .truncated := by decide
theorem test_encode_bit : encode (.bitIx 0#3 0x10#8 6#3) = [0xDD#8, 0xCB#8, 0x10#8, 0x46#8] := by decide
theorem test_encode_set : encode (.setIxA 7#3 0x00#8) = [0xDD#8, 0xCB#8, 0x00#8, 0xFF#8] := by decide

/-! ### A small state -/

/-- Registers A to L hold 01 to 07, IX = IY = base, F and memory as given, flat RAM. -/
def small (pc base : Word) (f : Byte) (mem : List (Word × Byte)) : State :=
  { regs := { a := 0x01, b := 0x02, c := 0x03, d := 0x04, e := 0x05, h := 0x06, l := 0x07, f := f }
    shadow := .initial, ix := base, iy := base, sp := 0xFFF0#16, pc := pc, pfx := .none
    intState := { token := 7 }, cyc := 100
    bus := mem.foldl (fun b e => b.load e.1 e.2) .flatRam }

/-- The small state with an address backed by something else than RAM. -/
def withSpecial (s : State) (a : Nat) (k : Backing) : State := { s with bus := { s.bus with special := [(a, k)] } }

/-- The outcome is a next state with a property. -/
def nextAnd (o : Host.Outcome State Fault Refusal) (p : State → Bool) : Bool :=
  match o with
  | .next t => p t
  | .fault _ => false
  | .refused _ => false

/-- The outcome is this fault. -/
def faultsWith (o : Host.Outcome State Fault Refusal) (e : BusError) : Bool :=
  match o with
  | .fault (.busFailure e') => decide (e' = e)
  | .next _ => false
  | .refused _ => false

/-- The outcome is this refusal. -/
def refusedAs (o : Host.Outcome State Fault Refusal) (c : Context) (op : Byte) : Bool :=
  match o with
  | .refused r => decide (r = .unspecified c op)
  | .next _ => false
  | .fault _ => false

/-! ### Resolver and flag library (95_test_vectors.md sections 2.1, 2.2) -/

theorem test_resolver : ([(0xFFFF#16, 0x01#8, 0x0000#16), (0x0000#16, 0xFF#8, 0xFFFF#16), (0x2000#16, 0x80#8, 0x1F80#16),
    (0x0010#16, 0x80#8, 0xFF90#16), (0xFFF0#16, 0x7F#8, 0x006F#16), (0x0003#16, 0xED#8, 0xFFF0#16)] :
    List (Word × Byte × Word)).all (fun e => decide (resolveIndexed e.1 e.2.1 = e.2.2)) = true := by decide
theorem test_szp53 : ([(0x00#8, 0x44#8), (0x01#8, 0x00#8), (0x03#8, 0x04#8), (0x08#8, 0x08#8), (0x28#8, 0x2C#8),
    (0x80#8, 0x80#8), (0xC0#8, 0x84#8), (0xAA#8, 0xAC#8), (0xFF#8, 0xAC#8)] :
    List (Byte × Byte)).all (fun e => decide (szp53 e.1 = e.2)) = true := by decide
theorem test_address_flags : ([(0x2010#16, 0x20#8), (0x0800#16, 0x08#8), (0x2800#16, 0x28#8), (0xD7FF#16, 0x00#8),
    (0x00FF#16, 0x00#8)] : List (Word × Byte)).all (fun e => decide (x5Check16 e.1 ||| x3Check16 e.1 = e.2)) = true := by
  decide

/-! ### BIT (95_test_vectors.md section 2.3): b, v, ea, F before, F after -/

theorem test_bit_flags : ([(0#3, 0x55#8, 0x2010#16, 0x00#8, 0x30#8), (0#3, 0x55#8, 0x2010#16, 0xFF#8, 0x31#8),
    (1#3, 0x55#8, 0x2010#16, 0x01#8, 0x75#8), (7#3, 0x80#8, 0x0000#16, 0x00#8, 0x90#8),
    (7#3, 0x7F#8, 0x2800#16, 0xD7#8, 0x7D#8), (3#3, 0x08#8, 0xFFFF#16, 0x00#8, 0x38#8),
    (5#3, 0x20#8, 0x0800#16, 0x01#8, 0x19#8), (0#3, 0x00#8, 0x2000#16, 0xFF#8, 0x75#8),
    (7#3, 0xFF#8, 0xD7FF#16, 0x02#8, 0x90#8)] : List (BitVec 3 × Byte × Word × Byte × Byte)).all (fun e =>
      nextAnd (exec (.bitIy e.1 0x00#8 6#3) (small 0x1000#16 e.2.2.1 e.2.2.2.1 [(e.2.2.1, e.2.1)]))
        (fun t => decide (t.flags = e.2.2.2.2 ∧ t.cyc = 120))) = true := by decide

/-- Scenario S6 with its Bus calls. -/
theorem test_step_bit_s6 : nextAnd (step (small 0x1000#16 0x2000#16 0xFF#8 [(0x1000#16, 0xDD#8), (0x1001#16, 0xCB#8),
    (0x1002#16, 0x10#8), (0x1003#16, 0x46#8), (0x2010#16, 0x55#8)])) (fun t => decide (t.flags = 0x31#8 ∧
      t.pc = 0x1004#16 ∧ t.cyc = 120 ∧ t.pfx = .none ∧ t.bus.calls = [.read 0x1000#16 0xDD#8, .read 0x1001#16 0xCB#8,
        .read 0x1002#16 0x10#8, .read 0x1003#16 0x46#8, .read 0x2010#16 0x55#8])) = true := by decide

/-- No r copies a register (R112, D8). -/
theorem test_bit_r_never_copies : ([0#3, 1#3, 2#3, 3#3, 4#3, 5#3, 6#3, 7#3] : List (BitVec 3)).all (fun r =>
    nextAnd (exec (.bitIy 4#3 0x00#8 r) (small 0x1000#16 0x1234#16 0x01#8 [(0x1234#16, 0x10#8)])) (fun t =>
      decide (t.regs = { (small 0x1000#16 0x1234#16 0x01#8 []).regs with f := 0x11#8 }))) = true := by decide

/-! ### RL, SRA, SET (sections 2.4 to 2.6): v, F before, result, F after -/

/-- The result and F of a row on flat RAM, at IX = IY = 0x4000. -/
def rmwGives (i : Byte → Instr) (l : List (Byte × Byte × Byte × Byte)) : Bool := l.all (fun e =>
  nextAnd (exec (i 0x7F#8) (small 0x1000#16 0x4000#16 e.2.1 [(0x407F#16, e.1)])) (fun t =>
    decide (t.bus.peek 0x407F#16 = e.2.2.1 ∧ t.flags = e.2.2.2 ∧ t.cyc = 123)))

theorem test_rl : rmwGives .rlIx [(0x00#8, 0x00#8, 0x00#8, 0x44#8), (0x00#8, 0x01#8, 0x01#8, 0x00#8),
    (0x80#8, 0x00#8, 0x00#8, 0x45#8), (0x80#8, 0x01#8, 0x01#8, 0x01#8), (0xFF#8, 0x00#8, 0xFE#8, 0xA9#8),
    (0xFF#8, 0x01#8, 0xFF#8, 0xAD#8), (0x55#8, 0x00#8, 0xAA#8, 0xAC#8), (0xAA#8, 0x01#8, 0x55#8, 0x05#8),
    (0x40#8, 0xFF#8, 0x81#8, 0x84#8), (0x14#8, 0xFE#8, 0x28#8, 0x2C#8)] = true := by decide
theorem test_sra : rmwGives .sraIy [(0x80#8, 0x00#8, 0xC0#8, 0x84#8), (0x80#8, 0xFF#8, 0xC0#8, 0x84#8),
    (0x00#8, 0xFF#8, 0x00#8, 0x44#8), (0x01#8, 0x00#8, 0x00#8, 0x45#8), (0xFF#8, 0x00#8, 0xFF#8, 0xAD#8),
    (0x7F#8, 0x00#8, 0x3F#8, 0x2D#8), (0x81#8, 0x01#8, 0xC0#8, 0x85#8), (0x50#8, 0x00#8, 0x28#8, 0x2C#8),
    (0x10#8, 0xFF#8, 0x08#8, 0x08#8), (0x55#8, 0x00#8, 0x2A#8, 0x29#8)] = true := by decide
theorem test_set : rmwGives (.setIx 3#3) [(0x08#8, 0xFF#8, 0x08#8, 0xFF#8), (0xF7#8, 0x5A#8, 0xFF#8, 0x5A#8)] = true := by
  decide

/-- `FD CB FE 11` (R122): the C register, not another, receives the result. -/
theorem test_step_rl_copy : nextAnd (step (small 0x1000#16 0x8000#16 0x00#8 [(0x1000#16, 0xFD#8), (0x1001#16, 0xCB#8),
    (0x1002#16, 0xFE#8), (0x1003#16, 0x11#8), (0x7FFE#16, 0x55#8)])) (fun t => decide (t.bus.peek 0x7FFE#16 = 0xAA#8 ∧
      t.regs = { (small 0x1000#16 0x8000#16 0x00#8 []).regs with c := 0xAA#8, f := 0xAC#8 } ∧ t.cyc = 123)) = true := by
  decide

/-- Program P3, second step (R15, R102): the instruction straddles 0xFFFF, and so does its address. -/
theorem test_step_sra_wraps : nextAnd (step (small 0xFFFE#16 0x0003#16 0x45#8 [(0xFFFE#16, 0xFD#8), (0xFFFF#16, 0xCB#8),
    (0x0000#16, 0xED#8), (0x0001#16, 0x28#8), (0xFFF0#16, 0x81#8)])) (fun t => decide (t.pc = 0x0002#16 ∧
      t.bus.peek 0xFFF0#16 = 0xC0#8 ∧ t.reg .b = 0xC0#8 ∧ t.flags = 0x85#8)) = true := by decide

/-- Scenario S8. -/
theorem test_step_set_s8 : nextAnd (step (small 0x1000#16 0x4000#16 0x5A#8 [(0x1000#16, 0xDD#8), (0x1001#16, 0xCB#8),
    (0x1002#16, 0x00#8), (0x1003#16, 0xFF#8)])) (fun t => decide (t.bus.peek 0x4000#16 = 0x80#8 ∧ t.reg .a = 0x80#8 ∧
      t.flags = 0x5A#8 ∧ t.pc = 0x1004#16)) = true := by decide

/-- Copy into H is the general register H; L and IX keep their values (section 2.6, D29). -/
theorem test_set_copy_h : nextAnd (exec (.setIxH 5#3 0x7F#8) (small 0x1000#16 0x4000#16 0xFF#8 [(0x407F#16, 0x5A#8)]))
    (fun t => decide (t.reg .h = 0x7A#8 ∧ t.reg .l = 0x07#8 ∧ t.ix = 0x4000#16)) = true := by decide

/-- Self-overwrite (section 2.6, R53): executes as fetched. -/
theorem test_step_self_overwrite : nextAnd (step (small 0x0300#16 0x0300#16 0xA5#8 [(0x0300#16, 0xDD#8),
    (0x0301#16, 0xCB#8), (0x0302#16, 0x03#8), (0x0303#16, 0xC6#8)])) (fun t => decide (t.bus.peek 0x0303#16 = 0xC7#8 ∧
      t.reg .a = 0x01#8 ∧ t.flags = 0xA5#8 ∧ t.pc = 0x0304#16)) = true := by decide

/-! ### File 44 (section 2.8) -/

theorem test_rlc : rmwGives .rlcIx [(0x80#8, 0x00#8, 0x01#8, 0x01#8), (0x55#8, 0x01#8, 0xAA#8, 0xAC#8)] = true := by decide
theorem test_rrc : rmwGives .rrcIx [(0x01#8, 0x00#8, 0x80#8, 0x81#8), (0xAA#8, 0x01#8, 0x55#8, 0x04#8)] = true := by decide
theorem test_rr : rmwGives .rrIy [(0x01#8, 0x00#8, 0x00#8, 0x45#8), (0x00#8, 0x01#8, 0x80#8, 0x80#8)] = true := by decide
theorem test_sla : rmwGives .slaIx [(0xC0#8, 0x00#8, 0x80#8, 0x81#8), (0x01#8, 0x01#8, 0x02#8, 0x00#8)] = true := by decide
theorem test_sll : rmwGives .sllIx [(0x00#8, 0x00#8, 0x01#8, 0x00#8), (0xFF#8, 0x00#8, 0xFF#8, 0xAD#8)] = true := by decide
theorem test_srl : rmwGives .srlIy [(0x81#8, 0x00#8, 0x40#8, 0x01#8), (0x01#8, 0x01#8, 0x00#8, 0x45#8)] = true := by decide
theorem test_res : rmwGives (.resIxA 7#3) [(0x80#8, 0xD7#8, 0x00#8, 0xD7#8), (0xFF#8, 0xD7#8, 0x7F#8, 0xD7#8)] = true := by
  decide
theorem test_res_copies_whole_byte : nextAnd (exec (.resIxA 0#3 0x00#8)
    (small 0x1000#16 0x4000#16 0xD7#8 [(0x4000#16, 0xFF#8)])) (fun t => decide (t.reg .a = 0xFE#8)) = true := by decide

/-! ### Refusals and Bus failures -/

theorem test_step_refuses_unprefixed : refusedAs (step State.reset) .none 0x00#8 = true := by decide
theorem test_step_refuses_cb : refusedAs (step (small 0x1000#16 0x4000#16 0x00#8 [(0x1000#16, 0xCB#8), (0x1001#16, 0x16#8)]))
    .cb 0x16#8 = true := by decide
theorem test_step_gk_off : refusedAs (stepWith false (State.reset.withFetchWord 32 0xDDCB0006)) .ddcb 0x06#8 = true := by
  decide
theorem test_step_gk_on : nextAnd (step (State.reset.withFetchWord 32 0xDDCB0006)) (fun t => decide (t.pc = 0x0004#16)) = true
  := by decide

/-- A device at 0x4000: the first call is answered, the second fails; RL reads and then its write fails. -/
theorem test_rl_write_fails : faultsWith (exec (.rlIx 0x00#8) (withSpecial (small 0x1000#16 0x4000#16 0x00#8 []) 0x4000
    (.device [.value 0x80#8] (.failure 42)))) 42 = true := by decide
/-- BIT makes one call only, so the same device answers it. -/
theorem test_bit_makes_one_call : nextAnd (exec (.bitIx 7#3 0x00#8 6#3) (withSpecial (small 0x1000#16 0x4000#16 0x00#8 [])
    0x4000 (.device [.value 0x80#8] (.failure 42)))) (fun t => decide (t.flags = 0x90#8)) = true := by decide
/-- The first failing call is the one reported (R173): the fetch of the third byte. -/
theorem test_step_fetch_fails : faultsWith (step (withSpecial (State.reset.withFetchWord 32 0xDDCB0046) 0x0002
    (.device [] (.failure 9)))) 9 = true := by decide
/-- ROM (R104): memory keeps its byte, the copy register receives the computed result. -/
theorem test_set_on_rom : nextAnd (exec (.setIxA 7#3 0x00#8) (withSpecial (small 0x1000#16 0x4000#16 0x00#8
    [(0x4000#16, 0x01#8)]) 0x4000 .rom)) (fun t => decide (t.bus.peek 0x4000#16 = 0x01#8 ∧ t.reg .a = 0x81#8)) = true := by
  decide

/-! ### The Bus as a parameter (R41): RAM that State does not have -/

/-- 0x8000 bytes of RAM that appear twice, from 0x0000 and from 0x8000. -/
def mirrored : BusInterface Memory :=
  { read := fun m a => .ok (m.read (a.toNat % 0x8000), m)
    write := fun m a v => .ok (m.write (a.toNat % 0x8000) v) }

/-- Two banks of RAM; a write to 0xFFFF selects the bank by its bit 0. -/
def banked : BusInterface (Bool × Memory × Memory) :=
  { read := fun b a => .ok ((if b.1 then b.2.2 else b.2.1).read a.toNat, b)
    write := fun b a v =>
      if a = 0xFFFF#16 then .ok (v.getLsbD 0, b.2)
      else if b.1 then .ok (b.1, b.2.1, b.2.2.write a.toNat v) else .ok (b.1, b.2.1.write a.toNat v, b.2.2) }

/-- A Bus that answers 0x81 and takes writes while its count lasts, then fails with 7. -/
def failing : BusInterface Nat :=
  { read := fun n _ => if n ≤ 1 then .error 7 else .ok (0x81#8, n - 1)
    write := fun n _ _ => if n ≤ 1 then .error 7 else .ok (n - 1) }

/-- CORE of the small state. -/
def coreAt (pc base : Word) : CoreState := (small pc base 0x00#8 []).toCoreState

/-- `SET 0,(IX+0)` at 0x1000 and the byte 0x80 at 0x4000 of the mirrored RAM. -/
def mirroredProgram : Memory := [(0x1000, 0xDD#8), (0x1001, 0xCB#8), (0x1003, 0xC6#8), (0x4000, 0x80#8)]

/-- The outcome on another Bus is a next state with a property. -/
def nextOn {BusState : Type} (o : Host.Outcome (CoreState × BusState) Fault Refusal) (p : CoreState × BusState → Bool) :
    Bool :=
  match o with
  | .next q => p q
  | .fault _ => false
  | .refused _ => false

/-- A write to 0xC000 is seen at 0x4000, and the program at 0x1000 is fetched at 0x9000. -/
theorem test_any_bus_mirrored : nextOn (stepOn mirrored false (coreAt 0x9000#16 0xC000#16, mirroredProgram)) (fun q =>
    decide (q.2.read 0x4000 = 0x81#8 ∧ q.1.pc = 0x9004#16 ∧ q.1.cyc = 123)) = true := by decide
/-- A write to 0xFFFF changes what a read of 0x4000 answers: the first SET selects bank 1, the second acts there. -/
theorem test_any_bus_banked : nextOn (execOn banked (.setIx 0#3 0x00#8)
    (coreAt 0x1000#16 0xFFFF#16, (false, [(0x4000, 0x10#8)], [(0x4000, 0x20#8)]))) (fun q =>
      nextOn (execOn banked (.setIyA 0#3 0x00#8) ({ q.1 with iy := 0x4000#16 }, q.2)) (fun r =>
        decide (r.2 = (true, [(0x4000, 0x10#8)], [(0x4000, 0x21#8)]) ∧ r.1.reg .a = 0x21#8))) = true := by decide

/-! ### Memory keeps its canonical form -/

theorem test_write_sorted : Memory.write [(1, 0x11#8), (3, 0x33#8)] 2 0x22#8 = [(1, 0x11#8), (2, 0x22#8), (3, 0x33#8)] := by
  decide
theorem test_write_unlisted_removes : Memory.write [(1, 0x11#8), (3, 0x33#8)] 3 0x00#8 = [(1, 0x11#8)] := by decide
theorem test_wf_refuses_unsorted : Memory.wf [(3, 0x33#8), (1, 0x11#8)] = false := by decide
theorem test_wf_refuses_listed_default : Memory.wf [(3, 0x00#8)] = false := by decide
theorem test_wf_refuses_outside : Memory.wf [(0x10000, 0x01#8)] = false := by decide

/-! ### Witnesses: a state and operands that meet each statement's hypotheses -/

/-- A state with an instruction word placed at pc = 0x1000, IX = IY = 0x4000 and 0x81 at 0x4000. -/
def ready (w : Nat) : State := (small 0x1000#16 0x4000#16 0x01#8 [(0x4000#16, 0x81#8)]).withFetchWord 32 w

theorem witness_EncodeThenDecode : Instr.wf false (.setIyH 7#3 0x80#8) = true ∧ Instr.wf true (.resIx 0#3 0xFF#8) = true := by
  decide
theorem witness_DecodeThenEncode :
    decodeWith false [0xFD#8, 0xCB#8, 0x80#8, 0xFC#8, 0x11#8] = .instr (.setIyH 7#3 0x80#8) [0x11#8] := by decide
/-- The boundary opcode bytes of each refused range (R71), and the clauses' side conditions. -/
theorem witness_RefusedSpaceExact :
    (([0x00#8, 0x0F#8, 0x18#8, 0x27#8, 0x30#8, 0x3F#8, 0x80#8, 0xBF#8] : List Byte).all (fun op =>
      decide (decodeWith false [0xDD#8, 0xCB#8, 0x00#8, op] = .unspecified .ddcb op [] ∧
        decodeWith false [0xFD#8, 0xCB#8, 0x00#8, op] = .unspecified .fdcb op []))) = true ∧
    (([0x10#8, 0x17#8, 0x28#8, 0x2F#8, 0x40#8, 0x7F#8, 0xC0#8, 0xFF#8] : List Byte).all (fun op =>
      decide (decodeWith false [0xDD#8, 0xCB#8, 0x00#8, op] ≠ .unspecified .ddcb op []))) = true ∧
    ((0x00#8 : Byte) ≠ 0xCB#8 ∧ (0x00#8 : Byte) ≠ 0xED#8 ∧ (0x00#8 : Byte) ≠ 0xDD#8 ∧ (0x00#8 : Byte) ≠ 0xFD#8) := by
  decide
theorem witness_TablesShareHandlers :
    (∃ t, exec (Instr.ofShape (shapeOfOpcode .ix 0x00#8 0x17#8)) (ready 0) = .next t) ∧
    ∃ f, exec (Instr.ofShape (shapeOfOpcode .ix 0x00#8 0x17#8))
      (withSpecial (ready 0) 0x4000 (.device [] (.failure 5))) = .fault f := ⟨⟨_, rfl⟩, ⟨_, rfl⟩⟩
theorem witness_StepRunsDecoded : ∃ b4, (ready 0xDDCB0017).bus.readBytes (ready 0xDDCB0017).pc 4 =
      .ok ([0xDD#8, 0xCB#8, 0x00#8, 0x17#8], b4) ∧
    decodeWith false [0xDD#8, 0xCB#8, 0x00#8, 0x17#8] = .instr (.rlIxA 0x00#8) [] := ⟨_, rfl, rfl⟩
theorem witness_StepRefusesUnspecified : (∃ b, (ready 0xED440000).bus.readBytes (ready 0xED440000).pc 2 =
      .ok ([0xED#8, 0x44#8], b) ∧ decodeWith true [0xED#8, 0x44#8] = .unspecified .ed 0x44#8 []) ∧
    (∃ b, (ready 0).bus.readBytes (ready 0).pc 1 = .ok ([0x00#8], b) ∧
      decodeWith true [0x00#8] = .unspecified .none 0x00#8 []) ∧
    ∃ b, (ready 0xDDCB0006).bus.readBytes (ready 0xDDCB0006).pc 4 = .ok ([0xDD#8, 0xCB#8, 0x00#8, 0x06#8], b) ∧
      decodeWith false [0xDD#8, 0xCB#8, 0x00#8, 0x06#8] = .unspecified .ddcb 0x06#8 [] :=
  ⟨⟨_, rfl, rfl⟩, ⟨_, rfl, rfl⟩, ⟨_, rfl, rfl⟩⟩
theorem witness_FetchFailureEndsStep :
    (∃ b, (withSpecial (ready 0xDDCB0017) 0x1002 (.device [] (.failure 9))).bus.readBytes 0x1000#16 2 =
      .ok ([0xDD#8, 0xCB#8], b) ∧ decodeWith true [0xDD#8, 0xCB#8] = .truncated ∧
      b.read (0x1000#16 + BitVec.ofNat 16 2) = .error 9) ∧
    ∃ b, (withSpecial (ready 0xDDCB0017) 0x1000 (.device [] (.failure 9))).bus.readBytes 0x1000#16 0 = .ok ([], b) ∧
      decodeWith true [] = .truncated ∧ b.read (0x1000#16 + BitVec.ofNat 16 0) = .error 9 :=
  ⟨⟨_, rfl, rfl, rfl⟩, ⟨_, rfl, rfl, rfl⟩⟩
theorem witness_OperandFailureEndsInstruction :
    (withSpecial (ready 0) 0x4000 (.device [] (.failure 5))).bus.read
      (Instr.ea (.rlIx 0x00#8) (withSpecial (ready 0) 0x4000 (.device [] (.failure 5)))) = .error 5 ∧
    ∃ b1, (withSpecial (ready 0) 0x4000 (.device [.value 0x81#8] (.failure 5))).bus.read 0x4000#16 = .ok (0x81#8, b1) ∧
      storedByte (Instr.rlIx 0x00#8).toShape 0x81#8 true = some 0x03#8 ∧ b1.write 0x4000#16 0x03#8 = .error 5 :=
  ⟨rfl, _, rfl, rfl, rfl⟩
theorem witness_InstructionsFaultOnlyOnBusFailure :
    ∃ f, exec (.rlIx 0x00#8) (withSpecial (ready 0) 0x4000 (.device [.value 0x81#8] (.failure 5))) = .fault f := ⟨_, rfl⟩
theorem witness_EveryInstructionCompletes : (withSpecial (ready 0) 0x4000 (.device [] (.value 0x81#8))).bus.neverFails = true ∧
    (withSpecial (ready 0) 0x4000 .rom).bus.neverFails = true ∧ (ready 0).bus.neverFails = true := by decide
theorem witness_AnsweringBusNeverFaults : (ready 0xDDCB0017).bus.neverFails = true := by decide
theorem witness_completed_step : ∃ t, stepWith true (ready 0xDDCB0017) = .next t := ⟨_, rfl⟩
theorem witness_StepBusCallsInOrder : ∃ t, stepWith true (ready 0xDDCB0046) = .next t := ⟨_, rfl⟩
theorem witness_StepKeepsInvariant : (ready 0xDDCB0017).Inv ∧ ∃ t, stepWith false (ready 0xDDCB0017) = .next t :=
  ⟨⟨by decide, rfl⟩, _, rfl⟩
theorem witness_CreationFollowsInit : Bus.flatRam.neverFails = true := by decide
theorem witness_StepAdvancesPcAndClearsMarker : ∃ t, stepWith true (ready 0xFDCB8087) = .next t := ⟨_, rfl⟩
theorem witness_StepReturnsCost : (∃ b4 t, (ready 0xDDCB0017).bus.readBytes (ready 0xDDCB0017).pc 4 =
      .ok ([0xDD#8, 0xCB#8, 0x00#8, 0x17#8], b4) ∧ decode [0xDD#8, 0xCB#8, 0x00#8, 0x17#8] = .instr (.rlIxA 0x00#8) [] ∧
      step (ready 0xDDCB0017) = .next t) ∧
    (∃ f, step (withSpecial (ready 0xDDCB0017) 0x1002 (.device [] (.failure 9))) = .fault f) ∧
    ∃ r, step (ready 0) = .refused r := ⟨⟨_, _, rfl, rfl, rfl⟩, ⟨_, rfl⟩, ⟨_, rfl⟩⟩
theorem witness_StepLeavesTheRestAlone : ∃ t, stepWith true (ready 0xDDCB00C7) = .next t := ⟨_, rfl⟩
theorem witness_RunsReadNoGeneralRegister :
    (ready 0xDDCB0017).SameInputs { ready 0xDDCB0017 with sp := 0x1234#16, cyc := 5 } ∧
    ∃ t : State, Host.Core.run Sys2Proof.core 1 (ready 0xDDCB0017) = .next t := ⟨⟨rfl, rfl, rfl, rfl, rfl, rfl⟩, _, rfl⟩
theorem witness_RunsAdvanceSteadily :
    ∃ t : State, Host.Core.run Sys2Proof.core 1 (ready 0xDDCB0046) = .next t := ⟨_, rfl⟩
theorem witness_PlacedWordIsTheNextInstruction : decodeTableWord 32 0xFDCB80BF = some (.resIyA 7#3 0x80#8) := by decide

/-- The Bus answers the read of ea = 0x4000 and takes the write there. -/
theorem witness_bus_answers (res : Byte) : ∃ b1 b2, (ready 0).bus.read (resolveIndexed ((ready 0).index .ix) 0x00#8) =
    .ok (0x81#8, b1) ∧ b1.write (resolveIndexed ((ready 0).index .ix) 0x00#8) res = .ok b2 := ⟨_, _, rfl, rfl⟩
theorem witness_BitResult : (Instr.bitIx 3#3 0x00#8 6#3).toShape = .bit .ix 3#3 6#3 0x00#8 ∧
    ∃ b1, (ready 0).bus.read (resolveIndexed ((ready 0).index .ix) 0x00#8) = .ok (0x81#8, b1) := ⟨rfl, _, rfl⟩
theorem witness_RlResult : (Instr.rlIxA 0x00#8).toShape = .shift .rl .ix (some .a) 0x00#8 ∧
    ∃ b1 b2, (ready 0).bus.read (resolveIndexed ((ready 0).index .ix) 0x00#8) = .ok (0x81#8, b1) ∧
      (0x03#8 : Byte) = (0x81#8 <<< 1) ||| (if (ready 0).flag .c then 1#8 else 0#8) ∧
      b1.write (resolveIndexed ((ready 0).index .ix) 0x00#8) 0x03#8 = .ok b2 := ⟨rfl, _, _, rfl, by decide, rfl⟩
theorem witness_SraResult : (Instr.sraIx 0x00#8).toShape = .shift .sra .ix none 0x00#8 ∧
    ∃ b1 b2, (ready 0).bus.read (resolveIndexed ((ready 0).index .ix) 0x00#8) = .ok (0x81#8, b1) ∧
      (0xC0#8 : Byte) = (0x81#8 >>> 1) ||| (0x81#8 &&& 0x80#8) ∧
      b1.write (resolveIndexed ((ready 0).index .ix) 0x00#8) 0xC0#8 = .ok b2 := ⟨rfl, _, _, rfl, by decide, rfl⟩
theorem witness_SetResult : (Instr.setIxL 1#3 0x00#8).toShape = .set .ix 1#3 (some .l) 0x00#8 ∧
    ∃ b1 b2, (ready 0).bus.read (resolveIndexed ((ready 0).index .ix) 0x00#8) = .ok (0x81#8, b1) ∧
      (0x83#8 : Byte) = 0x81#8 ||| (1#8 <<< (1#3 : BitVec 3).toNat) ∧
      b1.write (resolveIndexed ((ready 0).index .ix) 0x00#8) 0x83#8 = .ok b2 := ⟨rfl, _, _, rfl, by decide, rfl⟩
theorem witness_RlcResult : (Instr.rlcIx 0x00#8).toShape = .shift .rlc .ix none 0x00#8 ∧
    (0x03#8 : Byte) = (0x81#8 <<< 1) ||| (if (0x81#8 : Byte).getLsbD 7 then 1#8 else 0#8) ∧
    ∃ b1 b2, (ready 0).bus.read (resolveIndexed ((ready 0).index .ix) 0x00#8) = .ok (0x81#8, b1) ∧
      b1.write (resolveIndexed ((ready 0).index .ix) 0x00#8) 0x03#8 = .ok b2 := ⟨rfl, by decide, witness_bus_answers _⟩
theorem witness_RrcResult : (Instr.rrcIx 0x00#8).toShape = .shift .rrc .ix none 0x00#8 ∧
    (0xC0#8 : Byte) = (0x81#8 >>> 1) ||| (if (0x81#8 : Byte).getLsbD 0 then 0x80#8 else 0#8) ∧
    ∃ b1 b2, (ready 0).bus.read (resolveIndexed ((ready 0).index .ix) 0x00#8) = .ok (0x81#8, b1) ∧
      b1.write (resolveIndexed ((ready 0).index .ix) 0x00#8) 0xC0#8 = .ok b2 := ⟨rfl, by decide, witness_bus_answers _⟩
theorem witness_RrResult : (Instr.rrIxE 0x00#8).toShape = .shift .rr .ix (some .e) 0x00#8 ∧
    (0xC0#8 : Byte) = (0x81#8 >>> 1) ||| (if (ready 0).flag .c then 0x80#8 else 0#8) ∧
    ∃ b1 b2, (ready 0).bus.read (resolveIndexed ((ready 0).index .ix) 0x00#8) = .ok (0x81#8, b1) ∧
      b1.write (resolveIndexed ((ready 0).index .ix) 0x00#8) 0xC0#8 = .ok b2 := ⟨rfl, by decide, witness_bus_answers _⟩
theorem witness_SlaResult : (Instr.slaIx 0x00#8).toShape = .shift .sla .ix none 0x00#8 ∧
    (0x02#8 : Byte) = 0x81#8 <<< 1 ∧
    ∃ b1 b2, (ready 0).bus.read (resolveIndexed ((ready 0).index .ix) 0x00#8) = .ok (0x81#8, b1) ∧
      b1.write (resolveIndexed ((ready 0).index .ix) 0x00#8) 0x02#8 = .ok b2 := ⟨rfl, by decide, witness_bus_answers _⟩
theorem witness_SllResult : (Instr.sllIx 0x00#8).toShape = .shift .sll .ix none 0x00#8 ∧
    (0x03#8 : Byte) = (0x81#8 <<< 1) ||| 1#8 ∧
    ∃ b1 b2, (ready 0).bus.read (resolveIndexed ((ready 0).index .ix) 0x00#8) = .ok (0x81#8, b1) ∧
      b1.write (resolveIndexed ((ready 0).index .ix) 0x00#8) 0x03#8 = .ok b2 := ⟨rfl, by decide, witness_bus_answers _⟩
theorem witness_SrlResult : (Instr.srlIx 0x00#8).toShape = .shift .srl .ix none 0x00#8 ∧
    (0x40#8 : Byte) = 0x81#8 >>> 1 ∧
    ∃ b1 b2, (ready 0).bus.read (resolveIndexed ((ready 0).index .ix) 0x00#8) = .ok (0x81#8, b1) ∧
      b1.write (resolveIndexed ((ready 0).index .ix) 0x00#8) 0x40#8 = .ok b2 := ⟨rfl, by decide, witness_bus_answers _⟩
theorem witness_ResResult : (Instr.resIxB 0#3 0x00#8).toShape = .res .ix 0#3 (some .b) 0x00#8 ∧
    (0x80#8 : Byte) = 0x81#8 &&& ~~~(1#8 <<< (0#3 : BitVec 3).toNat) ∧
    ∃ b1 b2, (ready 0).bus.read (resolveIndexed ((ready 0).index .ix) 0x00#8) = .ok (0x81#8, b1) ∧
      b1.write (resolveIndexed ((ready 0).index .ix) 0x00#8) 0x80#8 = .ok b2 := ⟨rfl, by decide, witness_bus_answers _⟩
theorem witness_BitFlagsByName : (Instr.bitIy 7#3 0x00#8 0#3).toShape = .bit .iy 7#3 0#3 0x00#8 ∧
    (∃ b1, (ready 0).bus.read (Instr.ea (.bitIy 7#3 0x00#8 0#3) (ready 0)) = .ok (0x81#8, b1)) ∧
    ∃ t, exec (.bitIy 7#3 0x00#8 0#3) (ready 0) = .next t := ⟨rfl, ⟨_, rfl⟩, ⟨_, rfl⟩⟩
theorem witness_ShiftFlagsByName : (Instr.sraIy 0x00#8).toShape = .shift .sra .iy none 0x00#8 ∧
    (∃ b1, (ready 0).bus.read (Instr.ea (.sraIy 0x00#8) (ready 0)) = .ok (0x81#8, b1)) ∧
    storedByte (Instr.sraIy 0x00#8).toShape 0x81#8 ((ready 0).flag .c) = some 0xC0#8 ∧
    ∃ t, exec (.sraIy 0x00#8) (ready 0) = .next t := ⟨rfl, ⟨_, rfl⟩, by decide, ⟨_, rfl⟩⟩
theorem witness_BitFrame : ∃ t, exec (.bitIy 7#3 0x00#8 0#3) (ready 0) = .next t := ⟨_, rfl⟩
theorem witness_RotateShiftFrame : (∃ t, exec (.sllIyD 0x00#8) (ready 0) = .next t) ∧
    (Instr.sllIyD 0x00#8).toShape = .shift .sll .iy (some .d) 0x00#8 := ⟨⟨_, rfl⟩, rfl⟩
theorem witness_SetResFrame : (∃ t, exec (.setIyD 2#3 0x00#8) (ready 0) = .next t) ∧
    (Instr.setIyD 2#3 0x00#8).toShape = .set .iy 2#3 (some .d) 0x00#8 ∧
    (∃ t, exec (.resIy 2#3 0x00#8) (ready 0) = .next t) ∧
    (Instr.resIy 2#3 0x00#8).toShape = .res .iy 2#3 none 0x00#8 := ⟨⟨_, rfl⟩, rfl, ⟨_, rfl⟩, rfl⟩
theorem witness_StoredByteIsCopiedAndRead : (ready 0).bus.isRam (Instr.ea (.rlIxA 0x00#8) (ready 0)) ∧
    storedByte (Instr.rlIxA 0x00#8).toShape ((ready 0).bus.peek (Instr.ea (.rlIxA 0x00#8) (ready 0)))
      ((ready 0).flag .c) = some 0x03#8 := ⟨rfl, by decide⟩
theorem witness_CopyIsTheComputedByteOnRom :
    (withSpecial (ready 0) 0x4000 .rom).bus.backing
      (Instr.ea (.rlIxA 0x00#8) (withSpecial (ready 0) 0x4000 .rom)) = some .rom ∧
    storedByte (Instr.rlIxA 0x00#8).toShape ((withSpecial (ready 0) 0x4000 .rom).bus.peek 0x4000#16)
      ((withSpecial (ready 0) 0x4000 .rom).flag .c) = some 0x03#8 := ⟨rfl, by decide⟩
theorem witness_SetTwiceIsSetOnce : (Instr.setIxL 1#3 0x00#8).toShape = .set .ix 1#3 (some .l) 0x00#8 ∧
    (Instr.resIxL 1#3 0x00#8).toShape = .res .ix 1#3 (some .l) 0x00#8 ∧
    (ready 0).bus.isRam (Instr.ea (.setIxL 1#3 0x00#8) (ready 0)) ∧
    (ready 0).bus.isRam (Instr.ea (.resIxL 1#3 0x00#8) (ready 0)) := ⟨rfl, rfl, rfl, rfl⟩
theorem witness_NineRlRestoreByteAndCarry : (Instr.rlIxA 0x00#8).toShape = .shift .rl .ix (some .a) 0x00#8 ∧
    (ready 0).bus.isRam (Instr.ea (.rlIxA 0x00#8) (ready 0)) := ⟨rfl, rfl⟩
theorem witness_SraHalvesSigned : (Instr.sraIx 0x00#8).toShape = .shift .sra .ix none 0x00#8 ∧
    (ready 0).bus.isRam (Instr.ea (.sraIx 0x00#8) (ready 0)) := ⟨rfl, rfl⟩
/-- Addresses at both ends of the space (R102, section 2.1), and states with the marker set. -/
theorem witness_IndexedAddressWraps : ({ ready 0 with pfx := .indexX } : State).pfx = .indexX ∧
    ({ ready 0 with pfx := .indexY } : State).pfx = .indexY ∧ ∃ t, exec (.rlIx 0x00#8) (ready 0) = .next t :=
  ⟨rfl, rfl, _, rfl⟩
theorem witness_SaveSubFieldTable : Reg8.h ≠ Reg8.l := by decide
theorem witness_NamedFlagAccess : Flag.s ≠ Flag.c := by decide
theorem witness_RamAnswersAndKeeps : (ready 0).bus.isRam 0xFFFF#16 ∧ (ready 0).bus.isRam 0x0000#16 ∧
    (ready 0).bus.wf = true := ⟨rfl, rfl, by decide⟩

/-! ### Witnesses on other Buses -/

theorem witness_AnyBusStepRunsDecoded :
    ∃ b4, readBytesOn mirrored (mirroredProgram) (coreAt 0x9000#16 0xC000#16).pc 4 =
      .ok ([0xDD#8, 0xCB#8, 0x00#8, 0xC6#8], b4) ∧
    decodeWith false [0xDD#8, 0xCB#8, 0x00#8, 0xC6#8] = .instr (.setIx 0#3 0x00#8) [] := ⟨_, rfl, rfl⟩
/-- The read fails; BIT and a storing form after a read that both Buses answer alike; a write taken, a write that fails. -/
theorem witness_AnyBusGivesTheSameCore :
    failing.read 1 (Instr.ea (.setIx 0#3 0x00#8) (ready 0)) = .error 7 ∧
    (∃ b1, (ready 0).bus.read (Instr.ea (.setIx 1#3 0x00#8) (ready 0)) = .ok (0x81#8, b1)) ∧
    (∃ t, exec (.setIx 1#3 0x00#8) (ready 0) = .next t) ∧ (∃ t, exec (.bitIx 1#3 0x00#8 6#3) (ready 0) = .next t) ∧
    failing.read 3 (Instr.ea (.setIx 1#3 0x00#8) (ready 0)) = .ok (0x81#8, 2) ∧
    storedByte (Instr.bitIx 1#3 0x00#8 6#3).toShape 0x81#8 ((ready 0).flag .c) = none ∧
    storedByte (Instr.setIx 1#3 0x00#8).toShape 0x81#8 ((ready 0).flag .c) = some 0x83#8 ∧
    failing.write 2 (Instr.ea (.setIx 1#3 0x00#8) (ready 0)) 0x83#8 = .ok 1 ∧
    failing.write 1 (Instr.ea (.setIx 1#3 0x00#8) (ready 0)) 0x83#8 = .error 7 :=
  ⟨rfl, ⟨_, rfl⟩, ⟨_, rfl⟩, ⟨_, rfl⟩, rfl, rfl, by decide, rfl, rfl⟩
theorem witness_StateRunsAsTheFlatRam : (ready 0xDDCB0017).bus.special = [] ∧
    ∃ t, steps (stepWith false) 1 (ready 0xDDCB0017) = .next t := ⟨rfl, _, rfl⟩

end Sys2Proof.Tests
end

section
/-! SUPPORT. The step seen from both sides: the bytes that decode to an instruction and the step that runs it, what an
instruction leaves of the state, and runs of the machine. -/

namespace Sys2Proof

/-- The bytes of an instruction, field by field: the decoder reads these and no others (R65, R67, R70). -/
theorem decodeWith_eq_instr {admitGk : Bool} {bytes rest : List Byte} {i : Instr} :
    decodeWith admitGk bytes = .instr i rest ↔ ∃ x d op, bytes = x.byte :: cbByte :: d :: op :: rest ∧
      i = Instr.ofShape (shapeOfOpcode x d op) ∧ i.wf admitGk = true := by
  constructor
  · intro h
    unfold decodeWith at h
    split at h
    · cases h
    rename_i sel rest' hs
    split at h
    · cases h
    rename_i j hl
    cases h
    obtain ⟨x, d, op, rfl, hi, hw⟩ := lookup_eq_some.1 hl
    exact ⟨x, d, op, select_list_indexedBit.1 hs, hi, hw⟩
  · rintro ⟨x, d, op, hb, hi, hw⟩
    simp only [decodeWith, select_list_indexedBit.2 hb, lookup_eq_some.2 ⟨x, d, op, rfl, hi, hw⟩]

/-- Every operand form has a cost between that of BIT and 23 (R198). -/
theorem Shape.cost_bounds (p : Shape) : 20 ≤ p.cost ∧ p.cost ≤ 23 := by
  have hcosts : p.cost = Config.costBit ∨ p.cost = Config.costRl ∨ p.cost = Config.costSra ∨
      p.cost = Config.costSet ∨ p.cost = Config.costGk := by
    cases p with
    | shift k => cases k <;> simp [Shape.cost]
    | bit => simp [Shape.cost]
    | res => simp [Shape.cost]
    | set => simp [Shape.cost]
  simp only [Config.costBit, Config.costRl, Config.costSra, Config.costSet, Config.costGk] at hcosts
  omega

namespace Machine

/-! ### The fetch -/

/-- After an index byte and 0xCB at pc, the dispatch fetches displacement and opcode byte (R62). -/
theorem enterIndex_of_reads {BusState : Type} {B : BusInterface BusState} {c : CoreState} {x : Index} {d op : Byte}
    {b1 b2 b3 b4 : BusState} (h1 : B.read b1 c.pc = .ok (cbByte, b2)) (h2 : B.read b2 (c.pc + 1#16) = .ok (d, b3))
    (h3 : B.read b3 (c.pc + 1#16 + 1#16) = .ok (op, b4)) :
    enterIndex (busSource B) x (c, b1) =
      .ok (.indexedBit x d op, ({ c with pfx := x.marker, pc := c.pc + 1#16 + 1#16 + 1#16 }, b4)) := by
  simp [enterIndex, fetchDisplacement, busSource, fetchByte, CoreState.enter, h1, h2, h3]

/-- Four bytes of an indexed-bit-operation at pc select it: the converse of `select_bus_indexedBit`. -/
theorem select_bus_of_readBytes {BusState : Type} {B : BusInterface BusState} {c : CoreState} {b b4 : BusState}
    {x : Index} {d op : Byte} (h : readBytesOn B b c.pc 4 = .ok ([x.byte, cbByte, d, op], b4)) :
    select (busSource B) (c, b) = .ok (.indexedBit x d op, (fetchedCore c x, b4)) := by
  obtain ⟨v0, v1, v2, v3, b1, b2, b3, h0, h1, h2, h3, hv⟩ := readBytesOn_four.1 h
  cases hv
  have hx : enterIndex (busSource B) x ({ c with pc := c.pc + 1#16 }, b1) =
      .ok (.indexedBit x d op, (fetchedCore c x, b4)) := by
    rw [enterIndex_of_reads (c := { c with pc := c.pc + 1#16 }) h1 h2 h3, fetchedCore, ← four_ones]
  have hf : (busSource B).next (c, b) = .ok (x.byte, ({ c with pc := c.pc + 1#16 }, b1)) := by
    simp [busSource, fetchByte, h0]
  rw [select, hf, ← hx]
  cases x <;> rfl

/-- A fetch that finds the bytes of an instruction gives that instruction: the converse of `fetchInstr_instr`. -/
theorem fetchInstr_of_readBytes {BusState : Type} {B : BusInterface BusState} {admitGk : Bool} {c : CoreState}
    {b b4 : BusState} {bytes : List Byte} {i : Instr} (hr : readBytesOn B b c.pc 4 = .ok (bytes, b4))
    (hd : decodeWith admitGk bytes = .instr i []) :
    fetchInstr B admitGk (c, b) = .instr i (fetchedCore c i.toShape.index, b4) := by
  obtain ⟨x, d, op, rfl, hi, hw⟩ := decodeWith_eq_instr.1 hd
  have hx : i.toShape.index = x := by simp [hi]
  rw [fetchInstr, select_bus_of_readBytes hr, hx]
  simp only [lookup_eq_some.2 ⟨x, d, op, rfl, hi, hw⟩]

/-- On any Bus, a step runs the instruction that the bytes at pc decode to. -/
theorem stepOn_of_readBytes {BusState : Type} {B : BusInterface BusState} {admitGk : Bool} {c : CoreState}
    {b b4 : BusState} {bytes : List Byte} {i : Instr} (hr : readBytesOn B b c.pc 4 = .ok (bytes, b4))
    (hd : decodeWith admitGk bytes = .instr i []) :
    stepOn B admitGk (c, b) = execOn B i (fetchedCore c i.toShape.index, b4) := by
  rw [stepOn, fetchInstr_of_readBytes hr hd]

/-- A step of `State` runs the instruction that the bytes at pc decode to: the converse of `stepWith_next`. -/
theorem stepWith_of_readBytes {admitGk : Bool} {s : State} {b4 : Bus} {bytes : List Byte} {i : Instr}
    (hr : s.bus.readBytes s.pc 4 = .ok (bytes, b4)) (hd : decodeWith admitGk bytes = .instr i []) :
    stepWith admitGk s = exec i (fetchedState s i.toShape.index b4) := by
  rw [stepWith_eq_stepOn, State.split, stepOn_of_readBytes hr hd, exec_eq_execOn]
  rfl

/-! ### The Bus over several reads -/

/-- The calls that reading these bytes from an address on makes (R50). -/
def readCalls : Word → List Byte → List BusCall
  | _, [] => []
  | a, v :: vs => .read a v :: readCalls (a + 1#16) vs

@[simp] theorem readCalls_length (a : Word) (vs : List Byte) : (readCalls a vs).length = vs.length := by
  induction vs generalizing a with
  | nil => rfl
  | cons v vs ih => simp [readCalls, ih]

theorem Bus.readBytes_succ {b b' : Bus} {a : Word} {n : Nat} {vs : List Byte}
    (h : b.readBytes a (n + 1) = .ok (vs, b')) :
    ∃ v b1 ws, b.read a = .ok (v, b1) ∧ b1.readBytes (a + 1#16) n = .ok (ws, b') ∧ vs = v :: ws := by
  simp only [Bus.readBytes, readBytesOn, Bus.interface] at h
  split at h
  · cases h
  rename_i v b1 h1
  split at h
  · cases h
  rename_i ws b2 h2
  cases h
  exact ⟨v, b1, ws, h1, h2, rfl⟩

/-- Reading bytes keeps what every read keeps. -/
theorem Bus.readBytes_induction {P : Bus → Prop}
    (hP : ∀ {b b' : Bus} {a : Word} {v : Byte}, b.read a = .ok (v, b') → P b → P b') {n : Nat} {b b' : Bus} {a : Word}
    {vs : List Byte} (h : b.readBytes a n = .ok (vs, b')) (hb : P b) : P b' := by
  induction n generalizing b a vs with
  | zero => cases h; exact hb
  | succ n ih =>
    obtain ⟨v, b1, ws, h1, h2, -⟩ := Bus.readBytes_succ h
    exact ih h2 (hP h1 hb)

theorem Bus.readBytes_length {n : Nat} {b b' : Bus} {a : Word} {vs : List Byte}
    (h : b.readBytes a n = .ok (vs, b')) : vs.length = n := by
  induction n generalizing b a vs with
  | zero => cases h; rfl
  | succ n ih =>
    obtain ⟨v, b1, ws, -, h2, rfl⟩ := Bus.readBytes_succ h
    simp [ih h2]

/-- Reading bytes appends its reads to the event history, in order. -/
theorem Bus.readBytes_calls {n : Nat} {b b' : Bus} {a : Word} {vs : List Byte}
    (h : b.readBytes a n = .ok (vs, b')) : b'.calls = b.calls ++ readCalls a vs := by
  induction n generalizing b a vs with
  | zero => cases h; simp [readCalls]
  | succ n ih =>
    obtain ⟨v, b1, ws, h1, h2, rfl⟩ := Bus.readBytes_succ h
    rw [ih h2, Bus.read_calls h1, readCalls, List.append_assoc, List.singleton_append]

/-! ### What an instruction that completes leaves -/

section
variable {i : Instr} {s t : State}

/-- No instruction writes the shadow bank, an index register, SP or the interrupt state (R11, R12, R13, R22). -/
theorem exec_sameUntouched (h : exec i s = .next t) : s.SameUntouched t := by
  obtain ⟨v, b1, -, ⟨-, rfl⟩ | ⟨op, b2, -, -, rfl⟩⟩ := exec_next h <;> constructor <;> simp

theorem exec_pc (h : exec i s = .next t) : t.pc = s.pc := by
  obtain ⟨v, b1, -, ⟨-, rfl⟩ | ⟨op, b2, -, -, rfl⟩⟩ := exec_next h <;> simp

theorem exec_pfx (h : exec i s = .next t) : t.pfx = .none := by
  obtain ⟨v, b1, -, ⟨-, rfl⟩ | ⟨op, b2, -, -, rfl⟩⟩ := exec_next h <;> simp

theorem exec_cyc (h : exec i s = .next t) : t.cyc = s.cyc + i.cost := by
  obtain ⟨v, b1, -, ⟨-, rfl⟩ | ⟨op, b2, -, -, rfl⟩⟩ := exec_next h <;> simp [Instr.cost]

/-- An instruction writes no general register but its copy target (R104). -/
theorem exec_reg_other (h : exec i s = .next t) {q : Reg8} (hq : copyTarget i.toShape ≠ some q) :
    t.reg q = s.reg q := by
  obtain ⟨v, b1, -, ⟨-, rfl⟩ | ⟨op, b2, -, -, rfl⟩⟩ := exec_next h
  · exact bitNext_reg ..
  · exact rmwNext_reg_other _ _ _ _ hq

/-- An instruction leaves every address but its own: the byte and what backs it. -/
theorem exec_bus_other (h : exec i s = .next t) {a : Word} (ha : a ≠ i.ea s) :
    t.bus.peek a = s.bus.peek a ∧ t.bus.backing a = s.bus.backing a := by
  obtain ⟨v, b1, hr, h'⟩ := exec_next h
  have hb1 : b1.peek a = s.bus.peek a ∧ b1.backing a = s.bus.backing a :=
    ⟨by rw [Bus.peek, Bus.peek, Bus.read_mem hr], Bus.read_backing_other hr ha⟩
  obtain ⟨-, rfl⟩ | ⟨op, b2, -, hw, rfl⟩ := h'
  · simpa using hb1
  · simpa [Bus.write_peek_other hw ha, Bus.write_backing_other hw ha] using hb1

/-- All that an instruction leaves of the registers, pc and memory, in terms of its copy target and its address. -/
theorem exec_frame (h : exec i s = .next t) :
    (∀ q, copyTarget i.toShape ≠ some q → t.reg q = s.reg q) ∧ s.SameUntouched t ∧ t.pc = s.pc ∧
      ∀ a, a ≠ i.ea s → t.bus.peek a = s.bus.peek a ∧ t.bus.backing a = s.bus.backing a :=
  ⟨fun _ => exec_reg_other h, exec_sameUntouched h, exec_pc h, fun _ => exec_bus_other h⟩

/-- BIT leaves the Bus as its one read left it (R50, R112). -/
theorem exec_bit_bus {x : Index} {b r : BitVec 3} {d : Byte} (hi : i.toShape = .bit x b r d)
    (h : exec i s = .next t) : ∃ v, s.bus.read (i.ea s) = .ok (v, t.bus) := by
  obtain ⟨v, b1, hr, ⟨-, rfl⟩ | ⟨op, b2, hop, -, -⟩⟩ := exec_next h
  · exact ⟨v, by rw [hr, bitNext_bus]⟩
  · rw [hi] at hop; cases hop

/-- The byte a form stores is the result its computation gives, if it has one. -/
theorem storedByte_eq_computed (p : Shape) (v f : Byte) :
    storedByte p v (flagOf f .c) = (computed p).map (fun op => (op v f).res) := by
  cases p with
  | shift k => cases k <;> rfl
  | bit => rfl
  | res => rfl
  | set => rfl

/-- The Bus calls of an instruction: one read of its effective address, and the write of the byte it stores, if it
stores one (R50 items 4 to 6). -/
theorem exec_calls (h : exec i s = .next t) : ∃ v b1, s.bus.read (i.ea s) = .ok (v, b1) ∧
    t.bus.calls = s.bus.calls ++
      .read (i.ea s) v :: ((storedByte i.toShape v (s.flag .c)).map (.write (i.ea s))).toList := by
  obtain ⟨v, b1, hr, h'⟩ := exec_next h
  refine ⟨v, b1, hr, ?_⟩
  rw [CoreState.flag, storedByte_eq_computed]
  obtain ⟨hc, rfl⟩ | ⟨op, b2, hc, hw, rfl⟩ := h'
  · simp [hc, Bus.read_calls hr]
  · simp [hc, Bus.write_calls hw, Bus.read_calls hr]

theorem exec_calls_length (h : exec i s = .next t) :
    ∃ l, t.bus.calls = s.bus.calls ++ l ∧ 1 ≤ l.length ∧ l.length ≤ 2 := by
  obtain ⟨v, b1, -, hcalls⟩ := exec_calls h
  refine ⟨_, hcalls, ?_⟩
  rcases storedByte i.toShape v (s.flag .c) with _ | w <;> simp

/-- An instruction keeps the canonical form of the Bus. -/
theorem exec_bus_wf (h : exec i s = .next t) (hs : s.bus.wf = true) : t.bus.wf = true := by
  obtain ⟨v, b1, hr, ⟨-, rfl⟩ | ⟨op, b2, -, hw, rfl⟩⟩ := exec_next h
  · simpa using Bus.wf_read hr hs
  · simpa using Bus.wf_write hw (Bus.wf_read hr hs)

end

/-! ### What a step that completes leaves -/

@[simp] theorem fetchedState_pc (s : State) (x : Index) (b : Bus) : (fetchedState s x b).pc = s.pc + 4#16 := rfl
@[simp] theorem fetchedState_cyc (s : State) (x : Index) (b : Bus) : (fetchedState s x b).cyc = s.cyc := rfl
@[simp] theorem fetchedState_bus (s : State) (x : Index) (b : Bus) : (fetchedState s x b).bus = b := rfl

theorem fetchedState_sameUntouched (s : State) (x : Index) (b : Bus) : s.SameUntouched (fetchedState s x b) :=
  ⟨rfl, rfl, rfl, rfl, rfl⟩

theorem State.SameUntouched.refl (s : State) : s.SameUntouched s := ⟨rfl, rfl, rfl, rfl, rfl⟩

theorem State.SameUntouched.trans {s t u : State} (h : s.SameUntouched t) (h' : t.SameUntouched u) :
    s.SameUntouched u :=
  ⟨h'.shadow.trans h.shadow, h'.ix.trans h.ix, h'.iy.trans h.iy, h'.sp.trans h.sp, h'.intState.trans h.intState⟩

section
variable {admitGk : Bool} {s t : State}

theorem stepWith_pc (h : stepWith admitGk s = .next t) : t.pc = s.pc + 4#16 := by
  obtain ⟨bytes, b4, i, -, -, he⟩ := stepWith_next h
  rw [exec_pc he, fetchedState_pc]

theorem stepWith_pfx (h : stepWith admitGk s = .next t) : t.pfx = .none := by
  obtain ⟨bytes, b4, i, -, -, he⟩ := stepWith_next h
  exact exec_pfx he

theorem stepWith_cyc (h : stepWith admitGk s = .next t) : ∃ i : Instr, t.cyc = s.cyc + i.cost := by
  obtain ⟨bytes, b4, i, -, -, he⟩ := stepWith_next h
  exact ⟨i, by rw [exec_cyc he, fetchedState_cyc]⟩

theorem stepWith_sameUntouched (h : stepWith admitGk s = .next t) : s.SameUntouched t := by
  obtain ⟨bytes, b4, i, -, -, he⟩ := stepWith_next h
  exact (fetchedState_sameUntouched ..).trans (exec_sameUntouched he)

/-- Four calls for the fetch, one or two for the instruction (R50). -/
theorem stepWith_calls (h : stepWith admitGk s = .next t) :
    ∃ l, t.bus.calls = s.bus.calls ++ l ∧ 5 ≤ l.length ∧ l.length ≤ 6 := by
  obtain ⟨bytes, b4, i, hr, -, he⟩ := stepWith_next h
  obtain ⟨l, hl, hl1, hl2⟩ := exec_calls_length he
  refine ⟨readCalls s.pc bytes ++ l, ?_, ?_⟩
  · rw [hl, fetchedState_bus, Bus.readBytes_calls hr, List.append_assoc]
  · rw [List.length_append, readCalls_length, Bus.readBytes_length hr]; omega

/-- A step keeps the canonical form of the Bus. -/
theorem stepWith_bus_wf (h : stepWith admitGk s = .next t) (hs : s.bus.wf = true) : t.bus.wf = true := by
  obtain ⟨bytes, b4, i, hr, -, he⟩ := stepWith_next h
  exact exec_bus_wf he (Bus.readBytes_induction Bus.wf_read hr hs)

end

/-! ### Two states with the same inputs -/

theorem State.SameInputs.ea {s s' : State} (h : s.SameInputs s') (i : Instr) : i.ea s' = i.ea s := by
  obtain ⟨-, hx, hy, -, -, -⟩ := h
  cases hi : i.toShape.index <;> simp [Instr.ea, CoreState.index, hi, hx, hy]

/-- The fetch takes states with the same inputs to states with the same inputs. -/
theorem State.SameInputs.fetched {s s' : State} (h : s.SameInputs s') (x : Index) (b : Bus) :
    (fetchedState s x b).SameInputs (fetchedState s' x b) :=
  { pc := congrArg (· + 4#16) h.pc, ix := h.ix, iy := h.iy, pfx := rfl, flags := h.flags, bus := rfl }

/-- An instruction reads nothing but the inputs: it completes alike on two states that agree on them. -/
theorem exec_sameInputs {i : Instr} {s s' t : State} (hin : s.SameInputs s') (h : exec i s = .next t) :
    ∃ t', exec i s' = .next t' ∧ t.SameInputs t' := by
  have hea := hin.ea i
  obtain ⟨hpc, hx, hy, -, hf, hb⟩ := hin
  obtain ⟨v, b1, hr, ⟨hc, rfl⟩ | ⟨op, b2, hc, hw, rfl⟩⟩ := exec_next h
  · refine ⟨bitNext i.toShape v b1 s', by simp only [exec_bit hc, hea, hb, hr], ?_⟩
    have hflags : (bitNext i.toShape v b1 s').flags = (bitNext i.toShape v b1 s).flags := by
      rw [bitNext_flags, bitNext_flags, hf]
      exact congrArg (fun ea => bitFlags _ ea s.flags) hea
    exact { pc := by simp [hpc], ix := by simp [hx], iy := by simp [hy], pfx := by simp, flags := hflags, bus := by simp }
  · refine ⟨rmwNext i.toShape (op v s.flags) b2 s', by simp only [exec_rmw hc, hea, hb, hr, hf, hw], ?_⟩
    have hflags : (rmwNext i.toShape (op v s.flags) b2 s').flags = (rmwNext i.toShape (op v s.flags) b2 s).flags := by
      rw [rmwNext_flags, rmwNext_flags, hf]
    exact { pc := by simp [hpc], ix := by simp [hx], iy := by simp [hy], pfx := by simp, flags := hflags, bus := by simp }

/-- A step reads nothing but the inputs, and costs the same on two states that agree on them (R10, R24, R26). -/
theorem stepWith_sameInputs {admitGk : Bool} {s s' t : State} (hin : s.SameInputs s')
    (h : stepWith admitGk s = .next t) :
    ∃ t', stepWith admitGk s' = .next t' ∧ t.SameInputs t' ∧ t'.cyc + s.cyc = t.cyc + s'.cyc := by
  obtain ⟨bytes, b4, i, hr, hd, he⟩ := stepWith_next h
  obtain ⟨t', he', hout⟩ := exec_sameInputs (hin.fetched i.toShape.index b4) he
  have hs' : stepWith admitGk s' = .next t' := by
    rw [← hin.bus, ← hin.pc] at hr
    rw [stepWith_of_readBytes hr hd, he']
  refine ⟨t', hs', hout, ?_⟩
  rw [exec_cyc he, exec_cyc he', fetchedState_cyc, fetchedState_cyc]
  omega

/-! ### Runs -/

/-- A run of `n + 1` steps that completes is one step and a run of `n` steps. -/
theorem run_succ_next {n : Nat} {s t : State} : Host.Core.run core (n + 1) s = .next t ↔
    ∃ u, step s = .next u ∧ Host.Core.run core n u = .next t := by
  have hstep : core.step s = step s := rfl
  simp only [Host.Core.run, hstep]
  rcases step s with u | f | r <;> simp

/-- What `n` completed steps do to pc, cyc, the untouched state and the event history. -/
structure State.Advanced (n : Nat) (s t : State) : Prop where
  pc : t.pc = s.pc + BitVec.ofNat 16 (4 * n)
  cycLower : s.cyc + 20 * n ≤ t.cyc
  cycUpper : t.cyc ≤ s.cyc + 23 * n
  untouched : s.SameUntouched t
  calls : ∃ l, t.bus.calls = s.bus.calls ++ l ∧ 5 * n ≤ l.length ∧ l.length ≤ 6 * n

theorem State.Advanced.zero (s : State) : s.Advanced 0 s :=
  ⟨by simp, by simp, by simp, .refl s, [], by simp⟩

theorem State.Advanced.trans {m n : Nat} {s t u : State} (h : s.Advanced m t) (h' : t.Advanced n u) :
    s.Advanced (m + n) u := by
  obtain ⟨hpc, hlo, hhi, hun, l, hl, hl5, hl6⟩ := h
  obtain ⟨hpc', hlo', hhi', hun', l', hl', hl5', hl6'⟩ := h'
  refine ⟨?_, by omega, by omega, hun.trans hun', l ++ l', by rw [hl', hl, List.append_assoc], ?_, ?_⟩
  · rw [hpc', hpc, BitVec.add_assoc, ← BitVec.ofNat_add, Nat.mul_add]
  · rw [List.length_append]; omega
  · rw [List.length_append]; omega

/-- One completed step: four bytes fetched, one instruction run (R15, R50, R198). -/
theorem stepWith_advanced {admitGk : Bool} {s t : State} (h : stepWith admitGk s = .next t) : s.Advanced 1 t := by
  obtain ⟨i, hcyc⟩ := stepWith_cyc h
  have hcost : 20 ≤ i.cost ∧ i.cost ≤ 23 := i.toShape.cost_bounds
  exact ⟨stepWith_pc h, by omega, by omega, stepWith_sameUntouched h, stepWith_calls h⟩

theorem run_advanced {n : Nat} {s t : State} (h : Host.Core.run core n s = .next t) : s.Advanced n t := by
  induction n generalizing s with
  | zero => cases h; exact .zero _
  | succ n ih =>
    obtain ⟨u, hu, ht⟩ := run_succ_next.1 h
    rw [Nat.add_comm]
    exact (stepWith_advanced hu).trans (ih ht)

/-- Runs read nothing but the inputs. -/
theorem run_sameInputs {n : Nat} {s s' t : State} (hin : s.SameInputs s') (h : Host.Core.run core n s = .next t) :
    ∃ t' : State, Host.Core.run core n s' = .next t' ∧ t.SameInputs t' ∧ t'.cyc + s.cyc = t.cyc + s'.cyc := by
  induction n generalizing s s' with
  | zero => cases h; exact ⟨s', rfl, hin, Nat.add_comm ..⟩
  | succ n ih =>
    obtain ⟨u, hu, ht⟩ := run_succ_next.1 h
    obtain ⟨u', hu', hin', hcyc⟩ := stepWith_sameInputs hin hu
    obtain ⟨t', ht', hout, hcyc'⟩ := ih hin' ht
    exact ⟨t', run_succ_next.2 ⟨u', hu', ht'⟩, hout, by omega⟩

end Machine
end Sys2Proof
end

section
/-! SUPPORT. F by its named flags: a flag of F is one bit of it, what each operation on flags bytes does to a named flag,
and the flags bytes of BIT and of the rotates and shifts, flag by flag; F and the register pairs as numbers. -/

namespace Sys2Proof.Machine

/-! ### A named flag is one bit -/

/-- The bit of F that a named flag is (R16, R17). -/
def flagBit : Flag → Nat
  | .s => Config.flagPos.s
  | .z => Config.flagPos.z
  | .x5 => 5
  | .h => Config.flagPos.h
  | .x3 => 3
  | .pv => Config.flagPos.pv
  | .n => Config.flagPos.n
  | .c => Config.flagPos.c

theorem flagBit_lt (fl : Flag) : flagBit fl < 8 := by cases fl <;> decide

theorem flagBit_inj {fl fl' : Flag} : flagBit fl = flagBit fl' ↔ fl = fl' := by
  cases fl <;> cases fl' <;> decide

theorem exists_flagBit {k : Nat} (hk : k < 8) : ∃ fl, flagBit fl = k := by
  match k, hk with
  | 0, _ => exact ⟨.c, rfl⟩
  | 1, _ => exact ⟨.n, rfl⟩
  | 2, _ => exact ⟨.pv, rfl⟩
  | 3, _ => exact ⟨.x3, rfl⟩
  | 4, _ => exact ⟨.h, rfl⟩
  | 5, _ => exact ⟨.x5, rfl⟩
  | 6, _ => exact ⟨.z, rfl⟩
  | 7, _ => exact ⟨.s, rfl⟩

theorem flagMask_eq_twoPow (fl : Flag) : Config.flagMask fl = BitVec.twoPow 8 (flagBit fl) := by cases fl <;> rfl

theorem flagMask_ne_zero (fl : Flag) : Config.flagMask fl ≠ 0#8 := by cases fl <;> decide

theorem flagOf_eq_getLsbD (f : Byte) (fl : Flag) : flagOf f fl = f.getLsbD (flagBit fl) := by
  have hm := flagMask_ne_zero fl
  rw [flagMask_eq_twoPow] at hm
  rw [flagOf, flagMask_eq_twoPow, BitVec.and_twoPow]
  cases f.getLsbD (flagBit fl) <;> simp [hm]

/-- A flags byte is determined by its eight named flags. -/
theorem eq_of_flagOf_eq {f g : Byte} (h : ∀ fl, flagOf f fl = flagOf g fl) : f = g := by
  apply BitVec.eq_of_getLsbD_eq
  intro k hk
  obtain ⟨fl, rfl⟩ := exists_flagBit hk
  simpa only [flagOf_eq_getLsbD] using h fl

/-! ### Named flags of a flags byte put together from parts -/

@[simp] theorem flagOf_or (f g : Byte) (fl : Flag) : flagOf (f ||| g) fl = (flagOf f fl || flagOf g fl) := by
  simp [flagOf_eq_getLsbD]

@[simp] theorem flagOf_and (f g : Byte) (fl : Flag) : flagOf (f &&& g) fl = (flagOf f fl && flagOf g fl) := by
  simp [flagOf_eq_getLsbD]

@[simp] theorem flagOf_not (f : Byte) (fl : Flag) : flagOf (~~~f) fl = !flagOf f fl := by
  simp [flagOf_eq_getLsbD, flagBit_lt]

@[simp] theorem flagOf_flagMask (fl fl' : Flag) : flagOf (Config.flagMask fl) fl' = decide (fl = fl') := by
  simp [flagOf_eq_getLsbD, flagMask_eq_twoPow, flagBit_lt, flagBit_inj, eq_comm]

@[simp] theorem flagOf_contribution (fl fl' : Flag) (v : Bool) :
    flagOf (contribution fl v) fl' = (decide (fl = fl') && v) := by
  cases v with
  | false => simp [contribution, flagOf]
  | true => simp [contribution]

/-- The named-bit mutator, read flag by flag (R24). -/
theorem flagOf_withFlag (f : Byte) (fl fl' : Flag) (v : Bool) :
    flagOf (withFlag f fl v) fl' = if fl = fl' then v else flagOf f fl' := by
  by_cases h : fl = fl' <;> simp [withFlag, h]

theorem setFlag_flag (s : CoreState) (fl fl' : Flag) (v : Bool) :
    (s.setFlag fl v).flag fl' = if fl = fl' then v else s.flag fl' := by
  simp [CoreState.flag, CoreState.setFlag, flagOf_withFlag]

/-- A flags byte is the union of the contributions of its named flags. -/
theorem eq_union_contributions (f : Byte) :
    f = contribution .s (flagOf f .s) ||| contribution .z (flagOf f .z) ||| contribution .x5 (flagOf f .x5) |||
      contribution .h (flagOf f .h) ||| contribution .x3 (flagOf f .x3) ||| contribution .pv (flagOf f .pv) |||
      contribution .n (flagOf f .n) ||| contribution .c (flagOf f .c) := by
  apply eq_of_flagOf_eq
  intro fl
  cases fl <;> simp

/-! ### The flags byte of the rotates and shifts -/

/-- What a rotate or shift gives each named flag (R120, R140). -/
theorem flagOf_shiftFlags (res : Byte) (cout : Bool) (fl : Flag) : flagOf (shiftFlags res cout) fl = match fl with
    | .s => res.getLsbD 7
    | .z => decide (res = 0#8)
    | .x5 => res.getLsbD 5
    | .h => false
    | .x3 => res.getLsbD 3
    | .pv => decide (popcount res % 2 = 0)
    | .n => false
    | .c => cout := by
  have h5 : flagOf res .x5 = res.getLsbD 5 := flagOf_eq_getLsbD res .x5
  have h3 : flagOf res .x3 = res.getLsbD 3 := flagOf_eq_getLsbD res .x3
  cases fl <;> simp [shiftFlags, carry, szp53, signCheck, zeroCheck, parity, x5Check, x3Check, h5, h3]

/-- The new carry of each rotate and shift: old bit 7 for the left forms, old bit 0 for the right forms. -/
def carriedOut (v : Byte) : ShiftKind → Bool
  | .rlc | .rl | .sla | .sll => v.getLsbD 7
  | .rrc | .rr | .sra | .srl => v.getLsbD 0

/-- What a rotate or shift computes: the stored byte, and the flags byte of it and of the bit carried out. -/
theorem computed_shift (k : ShiftKind) (x : Index) (save : Option Reg8) (d v f res : Byte)
    (hres : storedByte (.shift k x save d) v (flagOf f .c) = some res) :
    (computed (.shift k x save d)).map (fun op => op v f) =
      some { res := res, flags := some (shiftFlags res (carriedOut v k)) } := by
  cases k <;> cases hres <;> rfl

theorem exec_shift_flags {i : Instr} {k : ShiftKind} {x : Index} {save : Option Reg8} {d v res : Byte} {s t : State}
    {b1 : Bus} (hi : i.toShape = .shift k x save d) (hr : s.bus.read (i.ea s) = .ok (v, b1))
    (hres : storedByte i.toShape v (s.flag .c) = some res) (h : exec i s = .next t) :
    t.flags = shiftFlags res (carriedOut v k) := by
  obtain ⟨w, c1, hr', h'⟩ := exec_next h
  cases hr.symm.trans hr'
  rw [hi] at hres h'
  have hc := computed_shift k x save d v s.flags res hres
  obtain ⟨hn, -⟩ | ⟨op, b2, hop, -, rfl⟩ := h'
  · cases hn
  · rw [hop, Option.map_some, Option.some.injEq] at hc
    rw [rmwNext_flags, hc, Option.getD_some]

/-- SET and RES compute a byte from the byte read alone, and no flags byte (R132, R147). -/
theorem computed_modify {p : Shape} {x : Index} {b : BitVec 3} {save : Option Reg8} {d : Byte}
    (hp : p = .set x b save d ∨ p = .res x b save d) :
    ∃ f : Byte → Byte, computed p = some (fun v _ => { res := f v, flags := none }) := by
  obtain rfl | rfl := hp
  · exact ⟨setFn b, rfl⟩
  · exact ⟨resFn b, rfl⟩

theorem exec_modify_flags {i : Instr} {x : Index} {b : BitVec 3} {save : Option Reg8} {d : Byte} {s t : State}
    (hi : i.toShape = .set x b save d ∨ i.toShape = .res x b save d) (h : exec i s = .next t) : t.flags = s.flags := by
  obtain ⟨f, hc⟩ := computed_modify hi
  obtain ⟨v, b1, -, ⟨hn, -⟩ | ⟨op, b2, hop, -, rfl⟩⟩ := exec_next h
  · rw [hc] at hn; cases hn
  · rw [hc] at hop; cases hop; exact rmwNext_flags ..

/-! ### The flags byte of BIT -/

/-- The masked test result is the mask if the tested bit is 1, and 0 otherwise (R112). -/
theorem and_bitMask (v : Byte) (b : BitVec 3) : v &&& bitMask b = if v.getLsbD b.toNat then bitMask b else 0#8 :=
  BitVec.and_twoPow v b.toNat

theorem bitMask_ne_zero (b : BitVec 3) : bitMask b ≠ 0#8 := by revert b; decide

theorem popcount_bitMask (b : BitVec 3) : popcount (bitMask b) = 1 := by revert b; decide

theorem bitMask_getLsbD_seven (b : BitVec 3) : (bitMask b).getLsbD 7 = decide (b = 7#3) := by revert b; decide

theorem zero_and_bitMask (v : Byte) (b : BitVec 3) : decide (v &&& bitMask b = 0#8) = !v.getLsbD b.toNat := by
  rw [and_bitMask]
  cases v.getLsbD b.toNat <;> simp [bitMask_ne_zero]

theorem even_popcount_and_bitMask (v : Byte) (b : BitVec 3) :
    decide (popcount (v &&& bitMask b) % 2 = 0) = !v.getLsbD b.toNat := by
  rw [and_bitMask]
  cases v.getLsbD b.toNat with
  | false => simp [popcount]
  | true => simp [popcount_bitMask]

theorem sign_and_bitMask (v : Byte) (b : BitVec 3) :
    (v &&& bitMask b).getLsbD 7 = (decide (b = 7#3) && v.getLsbD 7) := by
  rw [BitVec.getLsbD_and, bitMask_getLsbD_seven, Bool.and_comm]

/-- What BIT gives each named flag (R112). -/
theorem flagOf_bitFlags (v : Byte) (b : BitVec 3) (ea : Word) (f : Byte) (fl : Flag) :
    flagOf (bitFlags (v &&& bitMask b) ea f) fl = match fl with
      | .s => decide (b = 7#3) && v.getLsbD 7
      | .z => !v.getLsbD b.toNat
      | .x5 => ea.getLsbD 13
      | .h => true
      | .x3 => ea.getLsbD 11
      | .pv => !v.getLsbD b.toNat
      | .n => false
      | .c => flagOf f .c := by
  simp only [bitFlags, signCheck, zeroCheck, parity, x5Check16, x3Check16, unaffect, zero_and_bitMask,
    even_popcount_and_bitMask, sign_and_bitMask]
  cases fl <;> simp

theorem exec_bit_flags {i : Instr} {x : Index} {b r : BitVec 3} {d v : Byte} {s t : State} {b1 : Bus}
    (hi : i.toShape = .bit x b r d) (hr : s.bus.read (i.ea s) = .ok (v, b1)) (h : exec i s = .next t) :
    t.flags = bitFlags (v &&& bitMask b) (i.ea s) s.flags := by
  obtain ⟨w, c1, hr', h'⟩ := exec_next h
  cases hr.symm.trans hr'
  obtain ⟨-, rfl⟩ | ⟨op, b2, hop, -, -⟩ := h'
  · rw [bitNext_flags, Instr.ea, hi]; rfl
  · rw [hi] at hop; cases hop

/-! ### F as a number -/

/-- At the default FLAG_POS the sign flag stands where the sign bit of a byte does (R16, R90). -/
theorem signCheck_eq_and (v : Byte) : signCheck v = v &&& Config.flagMask .s := by
  apply eq_of_flagOf_eq
  intro fl
  have h7 : flagOf v .s = v.getLsbD 7 := flagOf_eq_getLsbD v .s
  cases fl <;> simp [signCheck, h7]

theorem zeroCheck_eq (v : Byte) : zeroCheck v = if v = 0#8 then Config.flagMask .z else 0#8 := by
  simp only [zeroCheck, contribution, decide_eq_true_eq]

theorem parity_eq (v : Byte) : parity v = if popcount v % 2 = 0 then Config.flagMask .pv else 0#8 := by
  simp only [parity, contribution, decide_eq_true_eq]

/-! ### Register pairs -/

/-- The 16-bit value of two bytes, the first one high (R20). -/
theorem Byte.append_toNat (hi lo : Byte) : (hi ++ lo : Word).toNat = 256 * hi.toNat + lo.toNat := by
  rw [BitVec.toNat_append, ← Nat.shiftLeft_add_eq_or_of_lt lo.isLt, Nat.shiftLeft_eq, Nat.mul_comm]

end Sys2Proof.Machine
end

section
/-! SUPPORT. The obligations of the family of the state, each settled from the facts above. -/

open Sys2Proof Sys2Proof.Machine

namespace Sys2Proof.Proofs

/-- Settles O14: every read and write keeps the canonical form of the Bus, and EXECUTE ends with the marker cleared. -/
theorem stepKeepsInvariant : Obligations.StepKeepsInvariant := by
  intro admitGk s t hs h
  exact ⟨stepWith_bus_wf h hs.busWf, stepWith_pfx h⟩

/-- Settles O21: one step takes states with the same inputs to states with the same inputs; induction on the steps. -/
theorem runsReadNoGeneralRegister : Obligations.RunsReadNoGeneralRegister := by
  intro n s s' t hin h
  exact run_sameInputs hin h

/-- Settles O22: what one step does adds up, by induction on the number of steps. -/
theorem runsAdvanceSteadily : Obligations.RunsAdvanceSteadily := by
  intro n s t h
  obtain ⟨hpc, hlo, hhi, hun, hcalls⟩ := run_advanced h
  exact ⟨hpc, hlo, hhi, hun, hcalls⟩

/-- Settles O17: the fetch advances pc by its four bytes, and EXECUTE clears the marker. -/
theorem stepAdvancesPcAndClearsMarker : Obligations.StepAdvancesPcAndClearsMarker := by
  intro admitGk s t h
  exact ⟨stepWith_pc h, stepWith_pfx h⟩

/-- Settles O20: neither the fetch nor an instruction writes any of that state. -/
theorem stepLeavesTheRestAlone : Obligations.StepLeavesTheRestAlone := by
  intro admitGk s t h
  exact stepWith_sameUntouched h

/-- Settles O35: the flags byte BIT assembles, flag by flag. -/
theorem bitFlagsByName : Obligations.BitFlagsByName := by
  intro i x b r d s t v b1 hi hr h
  simp only [CoreState.flag, exec_bit_flags hi hr h, flagOf_bitFlags, and_self]

/-- Settles O36: the flags byte is `szp53` of the stored byte and the bit carried out, flag by flag. -/
theorem shiftFlagsByName : Obligations.ShiftFlagsByName := by
  intro i k x save d s t v res b1 hi hr hres h
  simp only [CoreState.flag, exec_shift_flags hi hr hres h, flagOf_shiftFlags, true_and]
  cases k <;> rfl

/-- Settles O37: BIT has no copy target and makes one read, which changes no byte of memory. -/
theorem bitFrame : Obligations.BitFrame := by
  intro i x b r d s t hi h
  obtain ⟨v, hr⟩ := exec_bit_bus hi h
  obtain ⟨hreg, hun, hpc, hbus⟩ := exec_frame h
  refine ⟨fun q => hreg q (by simp [hi, copyTarget]), hun, hpc, fun a => ?_, fun a ha => (hbus a ha).2, v,
    Bus.read_calls hr⟩
  rw [Bus.peek, Bus.peek, Bus.read_mem hr]

/-- Settles O38: the frame of every instruction, at the operand form of a rotate or shift. -/
theorem rotateShiftFrame : Obligations.RotateShiftFrame := by
  intro i k x save d s t hi h
  have hframe := exec_frame h
  rw [Instr.ea, hi] at hframe
  exact hframe

/-- Settles O39: the frame of every instruction, at the operand forms of SET and RES, which assemble no flags byte. -/
theorem setResFrame : Obligations.SetResFrame := by
  intro i x b save d s t hi h
  refine ⟨exec_modify_flags hi h, ?_⟩
  have hframe := exec_frame h
  obtain hi | hi := hi
  · rw [Instr.ea, hi] at hframe; exact hframe
  · rw [Instr.ea, hi] at hframe; exact hframe

/-- Settles O49: the mutator read flag by flag; it is a `setFlags`, which writes F alone. -/
theorem namedFlagAccess : Obligations.NamedFlagAccess := by
  refine ⟨fun s fl fl' v => ?_, fun s => eq_union_contributions s.flags⟩
  refine ⟨by simp [setFlag_flag], fun hne => by simp [setFlag_flag, hne.symm], ?_⟩
  simp [CoreState.setFlag]

/-- Settles O52: the dispatch state machine over the Bus reads what the decoder reads. -/
theorem anyBusStepRunsDecoded : Obligations.AnyBusStepRunsDecoded := by
  intro BusState B admitGk c b b4 bytes i hr hd
  exact stepOn_of_readBytes hr hd

/-- Settles O6: the step on any Bus, at the Bus of `State`. -/
theorem stepRunsDecoded : Obligations.StepRunsDecoded := by
  intro admitGk s bytes b4 i hr hd
  exact stepWith_of_readBytes hr hd

/-- Settles O15: nothing is listed in the memory or the special addresses of the flat RAM. -/
theorem resetSatisfiesInvariant : Obligations.ResetSatisfiesInvariant :=
  ⟨rfl, State.create_pfx ..⟩

/-- Settles O16: creation takes each field from INIT. -/
theorem creationFollowsInit : Obligations.CreationFollowsInit := by
  refine ⟨fun init bus => ?_, rfl, rfl, rfl⟩
  exact ⟨rfl, rfl, rfl, rfl, rfl, rfl, rfl, State.create_pfx .., State.create_cyc .., State.create_bus ..,
    fun h => ⟨State.create_pfx .., h⟩⟩

/-- Settles O48: sign, X5 and X3 are bits of v itself, and 0xA8 is the union of their masks. -/
theorem flagByteNumbers : Obligations.FlagByteNumbers := by
  refine ⟨rfl, rfl, rfl, rfl, rfl, rfl, rfl, rfl, fun v => ?_⟩
  have hmask : 0xA8#8 = Config.flagMask .s ||| Config.flagMask .x5 ||| Config.flagMask .x3 := by decide
  have hz : zeroCheck v = if v = 0#8 then 0x40#8 else 0#8 := zeroCheck_eq v
  have hp : parity v = if popcount v % 2 = 0 then 0x04#8 else 0#8 := parity_eq v
  rw [szp53, signCheck_eq_and, hz, hp, x5Check, x3Check, hmask, BitVec.and_or_distrib_left,
    BitVec.and_or_distrib_left]
  ac_rfl

/-- Settles O50: a pair is its two registers side by side. -/
theorem pairIndirectIsPassThrough : Obligations.PairIndirectIsPassThrough := by
  intro s
  exact ⟨Byte.append_toNat .., Byte.append_toNat .., Byte.append_toNat ..⟩

end Sys2Proof.Proofs
end

section
/-! SUPPORT. The Bus side of an instruction and of a step: what an instruction does on any Bus, an equation per answer of
its calls; plain RAM and ROM under a read and a write; a fetch that fails; and whole runs on two Buses. -/

namespace Sys2Proof

/-! ### The bytes of an instruction -/

/-- An opcode byte is its three fields side by side (R66). -/
theorem opcode_fields (op : Byte) : op.extractLsb' 6 2 ++ op.extractLsb' 3 3 ++ op.extractLsb' 0 3 = op := by
  revert op; decide

/-- The opcode byte of the form that the fields of a byte name is that byte (R66, R67). -/
@[simp] theorem shapeOfOpcode_opcode (x : Index) (d op : Byte) : (shapeOfOpcode x d op).opcode = op := by
  have hcls : ∀ k : BitVec 2, k = 0#2 ∨ k = 1#2 ∨ k = 2#2 ∨ k = 3#2 := by decide
  conv_rhs => rw [← opcode_fields op]
  obtain h | h | h | h := hcls (op.extractLsb' 6 2) <;> rw [shapeOfOpcode, h] <;>
    simp [Shape.opcode]

/-- What decodes to an instruction and no rest is its encoding (R65). -/
theorem encode_of_decodeWith {admitGk : Bool} {bytes : List Byte} {i : Instr}
    (h : decodeWith admitGk bytes = .instr i []) : encode i = bytes ∧ i.wf admitGk = true := by
  obtain ⟨x, d, op, rfl, rfl, hw⟩ := decodeWith_eq_instr.1 h
  exact ⟨by simp [encode], hw⟩

theorem decodeWith_truncated {admitGk : Bool} {bytes : List Byte} (h : decodeWith admitGk bytes = .truncated) :
    select listSource bytes = .error () := by
  unfold decodeWith at h
  split at h
  · assumption
  · split at h <;> cases h

namespace Machine

/-! ### An instruction on any Bus, an equation per answer of its calls -/

/-- CORE after an instruction whose read was answered with a byte. -/
def coreAfter (p : Shape) (v : Byte) (c : CoreState) : CoreState :=
  match computed p with
  | none => bitCore p v c
  | some op => rmwCore p (op v c.flags) c

/-- A form that stores no byte computes none. -/
theorem storedByte_eq_none {p : Shape} {v f : Byte} (h : storedByte p v (flagOf f .c) = none) : computed p = none := by
  simpa [storedByte_eq_computed] using h

/-- The byte a form stores is the result it computes (R104). -/
theorem storedByte_eq_some {p : Shape} {v f w : Byte} (h : storedByte p v (flagOf f .c) = some w) :
    ∃ op, computed p = some op ∧ (op v f).res = w := by
  simpa [storedByte_eq_computed] using h

section
variable {BusState : Type} {B : BusInterface BusState} {i : Instr} {c : CoreState} {b b1 b2 : BusState} {v w : Byte}
  {e : BusError}

theorem execOn_read_fails (hr : B.read b (i.eaOf c) = .error e) : execOn B i (c, b) = busFailed e := by
  rcases hc : computed i.toShape with _ | op
  · rw [execOn_bit B hc, hr]
  · rw [execOn_rmw B hc, hr]

theorem execOn_reads (hr : B.read b (i.eaOf c) = .ok (v, b1)) (hn : storedByte i.toShape v (c.flag .c) = none) :
    execOn B i (c, b) = .next (coreAfter i.toShape v c, b1) := by
  have hc := storedByte_eq_none hn
  simp only [execOn_bit B hc, hr, coreAfter, hc]

theorem execOn_write_fails (hr : B.read b (i.eaOf c) = .ok (v, b1))
    (hs : storedByte i.toShape v (c.flag .c) = some w) (hw : B.write b1 (i.eaOf c) w = .error e) :
    execOn B i (c, b) = busFailed e := by
  obtain ⟨op, hc, rfl⟩ := storedByte_eq_some hs
  simp only [execOn_rmw B hc, hr, hw]

theorem execOn_stores (hr : B.read b (i.eaOf c) = .ok (v, b1)) (hs : storedByte i.toShape v (c.flag .c) = some w)
    (hw : B.write b1 (i.eaOf c) w = .ok b2) : execOn B i (c, b) = .next (coreAfter i.toShape v c, b2) := by
  obtain ⟨op, hc, rfl⟩ := storedByte_eq_some hs
  simp only [execOn_rmw B hc, hr, hw, coreAfter, hc]

end

/-- CORE after an instruction depends on the Bus through the byte it answered only. -/
theorem exec_core {i : Instr} {s t : State} {v : Byte} {b1 : Bus} (hr : s.bus.read (i.ea s) = .ok (v, b1))
    (h : exec i s = .next t) : t.toCoreState = coreAfter i.toShape v s.toCoreState := by
  obtain ⟨v', b1', hr', h'⟩ := exec_next h
  cases hr.symm.trans hr'
  obtain ⟨hc, rfl⟩ | ⟨op, b2, hc, -, rfl⟩ := h'
  · simp only [coreAfter, hc, bitNext, State.join_toCoreState]
  · simp only [coreAfter, hc, rmwNext, State.join_toCoreState]

/-- The copy register holds the byte that the form stores (R104). -/
theorem coreAfter_copyTarget {p : Shape} {v w : Byte} {c : CoreState} (hs : storedByte p v (c.flag .c) = some w)
    {q : Reg8} (hq : copyTarget p = some q) : (coreAfter p v c).reg q = w := by
  obtain ⟨op, hc, rfl⟩ := storedByte_eq_some hs
  simp [coreAfter, hc, rmwCore, hq]

/-- On any Bus an instruction completes or faults; it is never refused (R69). -/
theorem execOn_ne_refused {BusState : Type} (B : BusInterface BusState) (i : Instr) (p : CoreState × BusState)
    (r : Refusal) : execOn B i p ≠ .refused r := by
  unfold execOn runHandlerOn
  split <;> simp [busFailed]

/-! ### The same on the Bus of State -/

section
variable {i : Instr} {s : State} {b1 b2 : Bus} {v w : Byte} {e : BusError}

theorem exec_read_fails (hr : s.bus.read (i.ea s) = .error e) : exec i s = busFailed e := by
  rw [exec_eq_execOn, State.split, execOn_read_fails (B := Bus.interface) hr, mapNext_busFailed]

theorem exec_write_fails (hr : s.bus.read (i.ea s) = .ok (v, b1)) (hs : storedByte i.toShape v (s.flag .c) = some w)
    (hw : b1.write (i.ea s) w = .error e) : exec i s = busFailed e := by
  rw [exec_eq_execOn, State.split, execOn_write_fails (B := Bus.interface) hr hs hw, mapNext_busFailed]

theorem exec_stores (hr : s.bus.read (i.ea s) = .ok (v, b1)) (hs : storedByte i.toShape v (s.flag .c) = some w)
    (hw : b1.write (i.ea s) w = .ok b2) : exec i s = .next (State.join (coreAfter i.toShape v s.toCoreState, b2)) := by
  rw [exec_eq_execOn, State.split, execOn_stores (B := Bus.interface) hr hs hw, mapNext_next]

theorem exec_ne_refused (i : Instr) (s : State) (r : Refusal) : exec i s ≠ .refused r := by
  have h := execOn_ne_refused Bus.interface i s.split r
  rw [exec_eq_execOn]
  rcases hq : execOn Bus.interface i s.split with q | f | r'
  · simp
  · simp
  · simpa [hq] using h

end

/-! ### RAM and ROM under a read and a write -/

/-- RAM takes a write: the address holds the byte, every other address what it held (R41, R51). -/
theorem Bus.write_peek_ram {b b' : Bus} {a : Word} {v : Byte} (hb : b.isRam a) (h : b.write a v = .ok b') (c : Word) :
    b'.peek c = if c = a then v else b.peek c := by
  by_cases hc : c = a
  · rw [Bus.write_ram v hb] at h
    cases h
    simp [hc, Bus.peek, Memory.read_write]
  · rw [Bus.write_peek_other h hc, if_neg hc]

/-- ROM answers with the byte it holds. -/
theorem Bus.read_rom {b : Bus} {a : Word} (h : b.backing a = some .rom) :
    b.read a = .ok (b.peek a, b.log (.read a (b.peek a))) := by
  unfold Bus.read; rw [h]

/-- ROM takes a write and ignores it (R46). -/
theorem Bus.write_rom {b : Bus} {a : Word} (v : Byte) (h : b.backing a = some .rom) :
    b.write a v = .ok (b.log (.write a v)) := by
  unfold Bus.write; rw [h]

/-- On an address that behaves as RAM, a form that stores completes: CORE follows from the byte in memory, the computed
byte is there afterwards, and the address is RAM still (R46, R51, R104). -/
theorem exec_ram {i : Instr} {s : State} {w : Byte} (hb : s.bus.isRam (i.ea s))
    (hs : storedByte i.toShape (s.bus.peek (i.ea s)) (s.flag .c) = some w) :
    ∃ t, exec i s = .next t ∧ t.toCoreState = coreAfter i.toShape (s.bus.peek (i.ea s)) s.toCoreState ∧
      t.bus.isRam (i.ea s) ∧ (∀ a, t.bus.peek a = if a = i.ea s then w else s.bus.peek a) ∧
      t.bus.calls = s.bus.calls ++ [.read (i.ea s) (s.bus.peek (i.ea s)), .write (i.ea s) w] := by
  have hr := Bus.read_ram hb
  have hb1 := Bus.read_isRam hr hb
  have hw := Bus.write_ram w hb1
  refine ⟨_, exec_stores hr hs hw, rfl, Bus.write_isRam hw hb1, fun a => ?_, ?_⟩
  · exact Bus.write_peek_ram hb1 hw a
  · simp

/-! ### SET and RES twice -/

@[simp] theorem Bank.set_set (k : Bank) (r : Reg8) (v w : Byte) : (k.set r v).set r w = k.set r w := by cases r <;> rfl

@[simp] theorem Bank.copied_copied (k : Bank) (save : Option Reg8) (v w : Byte) :
    (k.copied save v).copied save w = k.copied save w := by
  cases save <;> simp [Bank.copied]

theorem CoreState.save_regs (c : CoreState) (save : Option Reg8) (v : Byte) :
    (c.save save v).regs = c.regs.copied save v := by cases save <;> rfl

theorem setFn_idem (b : BitVec 3) (v : Byte) : setFn b (setFn b v) = setFn b v := by
  rw [setFn, setFn, BitVec.or_assoc, BitVec.or_self]

theorem resFn_idem (b : BitVec 3) (v : Byte) : resFn b (resFn b v) = resFn b v := by
  rw [resFn, resFn, BitVec.and_assoc, BitVec.and_self]

/-- SET and RES store an idempotent function of the byte read, and copy it: no flag enters and none changes. -/
theorem modify_idem {p : Shape} {x : Index} {b : BitVec 3} {save : Option Reg8} {d : Byte}
    (hp : p = .set x b save d ∨ p = .res x b save d) :
    ∃ f : Byte → Byte, (∀ v, f (f v) = f v) ∧ (∀ v cin, storedByte p v cin = some (f v)) ∧
      ∀ v c, (coreAfter p v c).regs = c.regs.copied save (f v) := by
  obtain rfl | rfl := hp
  · exact ⟨setFn b, setFn_idem b, fun _ _ => rfl, fun v c => CoreState.save_regs (c.enter x) save _⟩
  · exact ⟨resFn b, resFn_idem b, fun _ _ => rfl, fun v c => CoreState.save_regs (c.enter x) save _⟩

/-- The effective address depends on the index registers only. -/
theorem State.SameUntouched.ea {s t : State} (h : s.SameUntouched t) (i : Instr) : i.ea t = i.ea s := by
  cases hi : i.toShape.index <;> simp [Instr.ea, CoreState.index, hi, h.ix, h.iy]

theorem execTimes_one (i : Instr) (s : State) : execTimes 1 i s = exec i s := by
  simp only [execTimes]
  rcases exec i s with t | f | r <;> rfl

theorem execTimes_succ_of_next {n : Nat} {i : Instr} {s t : State} (h : exec i s = .next t) :
    execTimes (n + 1) i s = execTimes n i t := by
  simp only [execTimes, h]

/-! ### A fetch that fails -/

/-- The Bus answers these bytes from an address on, and then fails. -/
def FailsAfter {BusState : Type} (B : BusInterface BusState) (e : BusError) : BusState → Word → List Byte → Prop
  | b, a, [] => B.read b a = .error e
  | b, a, v :: vs => ∃ b1, B.read b a = .ok (v, b1) ∧ FailsAfter B e b1 (a + 1#16) vs

theorem failsAfter_of_readBytes {e : BusError} {n : Nat} {b b' : Bus} {a : Word} {vs : List Byte}
    (h : b.readBytes a n = .ok (vs, b')) (he : b'.read (a + BitVec.ofNat 16 n) = .error e) :
    FailsAfter Bus.interface e b a vs := by
  induction n generalizing b a vs with
  | zero => cases h; simpa [FailsAfter, Bus.interface] using he
  | succ n ih =>
    obtain ⟨v, b1, ws, h1, h2, rfl⟩ := Bus.readBytes_succ h
    refine ⟨b1, h1, ih h2 ?_⟩
    rw [BitVec.add_assoc, ← BitVec.ofNat_add, Nat.add_comm 1]
    exact he

section
variable {BusState : Type} {B : BusInterface BusState} {e : BusError} {c : CoreState} {b : BusState} {bytes : List Byte}

/-- Each state of the dispatch that fetches fails on the Bus where it runs out of the bytes the Bus answers (R62). -/
theorem enterTable_fails {k : Context} (h : FailsAfter B e b c.pc bytes)
    (hl : enterTable listSource k bytes = .error ()) : enterTable (busSource B) k (c, b) = .error e := by
  cases bytes with
  | nil =>
    have h0 : B.read b c.pc = .error e := h
    simp [enterTable, busSource, fetchByte, h0]
  | cons v vs => simp [enterTable, listSource] at hl

theorem fetchDisplacement_fails {x : Index} (h : FailsAfter B e b c.pc bytes)
    (hl : fetchDisplacement listSource x bytes = .error ()) : fetchDisplacement (busSource B) x (c, b) = .error e := by
  match bytes, h with
  | [], (h0 : B.read b c.pc = .error e) => simp [fetchDisplacement, busSource, fetchByte, h0]
  | [d], ⟨b1, h0, (h1 : B.read b1 (c.pc + 1#16) = .error e)⟩ =>
    simp [fetchDisplacement, busSource, fetchByte, h0, h1]
  | d :: op :: rest, _ => simp [fetchDisplacement, listSource] at hl

theorem enterIndex_fails {x : Index} (h : FailsAfter B e b c.pc bytes)
    (hl : enterIndex listSource x bytes = .error ()) : enterIndex (busSource B) x (c, b) = .error e := by
  match bytes, h with
  | [], (h0 : B.read b c.pc = .error e) => simp [enterIndex, busSource, fetchByte, CoreState.enter, h0]
  | v :: vs, ⟨b1, h0, h1⟩ =>
    have hf : (busSource B).next ((busSource B).mark x (c, b)) =
        .ok (v, ({ c.enter x with pc := c.pc + 1#16 }, b1)) := by
      simp [busSource, fetchByte, h0]
    simp only [enterIndex, listSource] at hl
    simp only [enterIndex, hf]
    split at hl
    · rename_i hv
      rw [if_pos hv]
      exact fetchDisplacement_fails (c := { c.enter x with pc := c.pc + 1#16 }) h1 hl
    · cases hl

theorem select_fails (h : FailsAfter B e b c.pc bytes) (hl : select listSource bytes = .error ()) :
    select (busSource B) (c, b) = .error e := by
  match bytes, h with
  | [], (h0 : B.read b c.pc = .error e) => simp [select, busSource, fetchByte, h0]
  | v :: vs, ⟨b1, h0, h1⟩ =>
    have hf : (busSource B).next (c, b) = .ok (v, ({ c with pc := c.pc + 1#16 }, b1)) := by
      simp [busSource, fetchByte, h0]
    have hv : listSource.next (v :: vs) = .ok (v, vs) := rfl
    simp only [select, hv] at hl
    simp only [select, hf]
    by_cases hcb : v = cbByte
    · rw [if_pos hcb] at hl ⊢; exact enterTable_fails h1 hl
    rw [if_neg hcb] at hl ⊢
    by_cases hed : v = edByte
    · rw [if_pos hed] at hl ⊢; exact enterTable_fails h1 hl
    rw [if_neg hed] at hl ⊢
    by_cases hx : v = Index.byte .ix
    · rw [if_pos hx] at hl ⊢; exact enterIndex_fails h1 hl
    rw [if_neg hx] at hl ⊢
    by_cases hy : v = Index.byte .iy
    · rw [if_pos hy] at hl ⊢; exact enterIndex_fails h1 hl
    · rw [if_neg hy] at hl; cases hl

end

/-! ### A Bus that keeps its contract -/

/-- On a Bus that keeps its contract a computation ends, and the contract still holds (R42). -/
theorem Access.run_total {α : Type} (m : Access α) : ∀ b : Bus, b.neverFails = true →
    ∃ x b', m.run Bus.interface b = .ok (x, b') ∧ b'.neverFails = true := by
  induction m with
  | done x => intro b h; exact ⟨x, b, rfl, h⟩
  | read a k ih =>
    intro b h
    obtain ⟨v, b1, hr, h1⟩ := Bus.read_total a h
    simp only [Access.run, Bus.interface, hr]
    exact ih v b1 h1
  | write a v k ih =>
    intro b h
    obtain ⟨b1, hw, h1⟩ := Bus.write_total a v h
    simp only [Access.run, Bus.interface, hw]
    exact ih b1 h1

/-- A step is a computation run on the Bus of the state. -/
theorem stepWith_eq_access (admitGk : Bool) (s : State) : stepWith admitGk s =
    mapNext State.join (stepOutcome ((stepAccess admitGk s.toCoreState).run Bus.interface s.bus)) := by
  rw [stepWith_eq_stepOn, State.split, stepOn_eq_access]

/-- A step is refused only as Unspecified (R70). -/
theorem stepWith_refused {admitGk : Bool} {s : State} {r : Refusal} (h : stepWith admitGk s = .refused r) :
    ∃ k op, r = .unspecified k op := by
  unfold stepWith at h
  split at h
  · cases h
  · rename_i k op _; cases h; exact ⟨k, op, rfl⟩
  · exact absurd h (exec_ne_refused _ _ r)

/-! ### Runs on two Buses -/

theorem steps_succ_of_next {σ : Type} {f : σ → Host.Outcome σ Fault Refusal} {s t : σ} (n : Nat) (h : f s = .next t) :
    steps f (n + 1) s = steps f n t := by
  simp only [steps, h]

theorem steps_succ_of_fault {σ : Type} {f : σ → Host.Outcome σ Fault Refusal} {s : σ} {e : Fault} (n : Nat)
    (h : f s = .fault e) : steps f (n + 1) s = .fault e := by
  simp only [steps, h]

theorem steps_succ_of_refused {σ : Type} {f : σ → Host.Outcome σ Fault Refusal} {s : σ} {r : Refusal} (n : Nat)
    (h : f s = .refused r) : steps f (n + 1) s = .refused r := by
  simp only [steps, h]

/-- On plain RAM a step of `State` is the step on the flat RAM, and leaves plain RAM (R41). -/
theorem stepWith_flatRam (admitGk : Bool) {s : State} (h : s.bus.special = []) :
    mapNext (fun t : State => (t.toCoreState, t.bus.peek)) (stepWith admitGk s) =
        stepOn .flatRam admitGk (s.toCoreState, s.bus.peek) ∧
      ∀ t, stepWith admitGk s = .next t → t.bus.special = [] := by
  have hrun := (stepAccess admitGk s.toCoreState).run_flatRam s.bus h
  rw [stepWith_eq_access, stepOn_eq_access]
  rcases hm : (stepAccess admitGk s.toCoreState).run Bus.interface s.bus with e | ⟨r | c, b'⟩ <;>
    simp only [hm] at hrun
  · rw [hrun]
    exact ⟨rfl, nofun⟩
  · rw [hrun.2]
    exact ⟨rfl, nofun⟩
  · rw [hrun.2]
    refine ⟨rfl, ?_⟩
    rintro t ⟨⟩
    exact hrun.1

theorem steps_flatRam (admitGk : Bool) (n : Nat) {s : State} (h : s.bus.special = []) :
    mapNext (fun t : State => (t.toCoreState, t.bus.peek)) (steps (stepWith admitGk) n s) =
      steps (stepOn .flatRam admitGk) n (s.toCoreState, s.bus.peek) := by
  induction n generalizing s with
  | zero => rfl
  | succ n ih =>
    obtain ⟨hstep, hplain⟩ := stepWith_flatRam admitGk h
    rcases hs : stepWith admitGk s with t | f | r <;> rw [hs] at hstep
    · rw [steps_succ_of_next n hs, steps_succ_of_next n hstep.symm, ih (hplain t hs)]
    · rw [steps_succ_of_fault n hs, steps_succ_of_fault n hstep.symm, mapNext_fault]
    · rw [steps_succ_of_refused n hs, steps_succ_of_refused n hstep.symm, mapNext_refused]

/-- What any Bus makes of a run, a trace of replies makes of it on the Bus of `State`: the replies of the first step,
then those of the steps after it. -/
theorem steps_traceBus {BusState : Type} (B : BusInterface BusState) (admitGk : Bool) (n : Nat) (c : CoreState)
    (b : BusState) (calls : List BusCall) : ∃ trace,
    mapNext (fun t : State => (t.toCoreState, t.bus.calls))
        (steps (stepWith admitGk) n { toCoreState := c, bus := traceBus trace calls }) =
      mapNext (fun p => (p.1, p.2.2)) (steps (stepOn B.recorded admitGk) n (c, (b, calls))) := by
  induction n generalizing c b calls with
  | zero => exact ⟨[], rfl⟩
  | succ n ih =>
    obtain ⟨first, hfirst⟩ := (stepAccess admitGk c).run_traceBus B b calls
    have hon := stepOn_eq_access B.recorded admitGk c (b, calls)
    have hwith (later : List (Nat × Reply)) :=
      stepWith_eq_access admitGk { toCoreState := c, bus := traceBus (first ++ later) calls }
    rcases hm : (stepAccess admitGk c).run B.recorded (b, calls) with e | ⟨r | c', b', calls'⟩ <;>
      simp only [hm] at hfirst hon <;> simp only [hfirst] at hwith
    · refine ⟨first ++ [], ?_⟩
      rw [steps_succ_of_fault n (hwith []), steps_succ_of_fault n hon, mapNext_fault, mapNext_fault]
    · refine ⟨first ++ [], ?_⟩
      rw [steps_succ_of_refused n (hwith []), steps_succ_of_refused n hon, mapNext_refused, mapNext_refused]
    · obtain ⟨later, hlater⟩ := ih c' b' calls'
      refine ⟨first ++ later, ?_⟩
      rw [steps_succ_of_next n (hwith later), steps_succ_of_next n hon]
      exact hlater

end Machine
end Sys2Proof
end

section
/-! SUPPORT. The obligations of the family of memory and the Bus, each settled from the facts above. -/

open Sys2Proof Sys2Proof.Machine

namespace Sys2Proof.Proofs

/-- Settles O8: the dispatch over the Bus fails where the decoder runs out of bytes. -/
theorem fetchFailureEndsStep : Obligations.FetchFailureEndsStep := by
  intro admitGk s n bytes b e hr hd he
  have hsel := select_fails (c := s.toCoreState) (failsAfter_of_readBytes hr he) (decodeWith_truncated hd)
  rw [stepWith_eq_stepOn, State.split, stepOn, fetchInstr, hsel]
  rfl

/-- Settles O9: the first of an instruction's Bus calls that fails ends it. -/
theorem operandFailureEndsInstruction : Obligations.OperandFailureEndsInstruction := by
  intro i s
  exact ⟨fun e hr => exec_read_fails hr, fun v b1 w e hr hs hw => exec_write_fails hr hs hw⟩

/-- Settles O12: the step is a computation whose every Bus call is answered. -/
theorem answeringBusNeverFaults : Obligations.AnsweringBusNeverFaults := by
  intro admitGk s h
  obtain ⟨x, b', hrun, hb'⟩ := (stepAccess admitGk s.toCoreState).run_total s.bus h
  have hstep := stepWith_eq_access admitGk s
  rw [hrun] at hstep
  rcases x with r | c
  · obtain ⟨k, op, rfl⟩ := stepWith_refused hstep
    exact .inr ⟨k, op, hstep⟩
  · exact .inl ⟨_, hstep, hb'⟩

/-- Settles O13: the calls of the four reads of the fetch, then those of the instruction they encode. -/
theorem stepBusCallsInOrder : Obligations.StepBusCallsInOrder := by
  intro admitGk s t h
  obtain ⟨bytes, b4, i, hr, hd, he⟩ := stepWith_next h
  obtain ⟨henc, hw⟩ := encode_of_decodeWith hd
  obtain ⟨v, b1, -, hcalls⟩ := exec_calls he
  have hfetch := Bus.readBytes_calls hr
  obtain ⟨v0, v1, v2, v3, -, -, -, -, -, -, -, rfl⟩ := Bus.readBytes_four.1 hr
  refine ⟨i, v0, v1, v2, v3, v, henc, hw, ?_⟩
  have hea : i.ea (fetchedState s i.toShape.index b4) = i.ea s := (fetchedState_sameUntouched ..).ea i
  have hflag : (fetchedState s i.toShape.index b4).flag .c = s.flag .c := rfl
  rw [hcalls, hea, hflag, fetchedState_bus, hfetch]
  rcases storedByte i.toShape v (s.flag .c) with _ | w <;> simp [readCalls, BitVec.add_assoc]

/-- Settles O40: a form that stores, on RAM; the next read answers what memory holds. -/
theorem storedByteIsCopiedAndRead : Obligations.StoredByteIsCopiedAndRead := by
  intro i s res hb hs
  obtain ⟨t, he, hcore, hram, hpeek, -⟩ := exec_ram hb hs
  have hres : t.bus.peek (i.ea s) = res := by simp [hpeek]
  refine ⟨t, _, he, hres, fun q hq => ?_, hres ▸ Bus.read_ram hram⟩
  rw [hcore]
  exact coreAfter_copyTarget hs hq

/-- Settles O41: ROM answers the read and ignores the write; the copy is of the computed byte. -/
theorem copyIsTheComputedByteOnRom : Obligations.CopyIsTheComputedByteOnRom := by
  intro i s res hb hs
  have hr := Bus.read_rom hb
  exact ⟨_, exec_stores hr hs (Bus.write_rom res hb), rfl, fun q hq => coreAfter_copyTarget hs hq, by simp⟩

/-- Settles O42: the second run reads the byte that the first one stored, and setting or clearing its bit again
changes nothing. -/
theorem setTwiceIsSetOnce : Obligations.SetTwiceIsSetOnce := by
  intro i x b save d s hi hb
  obtain ⟨f, hidem, hstored, hregs⟩ := modify_idem hi
  obtain ⟨t1, he1, hcore1, hb1, hpeek1, hcalls1⟩ := exec_ram hb (hstored _ _)
  have hea : i.ea t1 = i.ea s := (exec_sameUntouched he1).ea i
  rw [← hea] at hb1
  obtain ⟨t2, he2, hcore2, -, hpeek2, hcalls2⟩ := exec_ram hb1 (hstored _ _)
  have hv : t1.bus.peek (i.ea t1) = f (s.bus.peek (i.ea s)) := by simp [hpeek1, hea]
  refine ⟨t1, t2, (execTimes_one i s).trans he1, ?_, fun a => ?_, ?_, by simp [hcalls2, hcalls1]⟩
  · rw [execTimes_succ_of_next he1, execTimes_one, he2]
  · rw [hpeek2, hv, hidem, hpeek1, hea]
    split <;> rfl
  · rw [hcore2, hregs, hv, hidem, hcore1, hregs, Bank.copied_copied]

/-- Settles O51: a write to RAM, then a read of the same address. -/
theorem ramAnswersAndKeeps : Obligations.RamAnswersAndKeeps := by
  intro b a v hb
  have hw := Bus.write_ram v hb
  have hr := Bus.read_ram (Bus.write_isRam hw hb)
  have hv := Bus.write_peek_ram hb hw a
  rw [if_pos rfl] at hv
  rw [hv] at hr
  exact ⟨_, _, hw, hr, fun c hc => Bus.write_peek_other hw hc, Bus.read_mem hr,
    by simp, Bus.wf_write hw⟩

/-- Settles O53: an instruction on any Bus, by the answers of its calls; CORE after it is that of the completed
instruction of the state. -/
theorem anyBusGivesTheSameCore : Obligations.AnyBusGivesTheSameCore := by
  intro BusState B i s b
  refine ⟨fun e hr => execOn_read_fails hr, fun t v b1 c1 hrs he hr => ?_⟩
  rw [exec_core hrs he]
  exact ⟨fun hn => execOn_reads hr hn, fun w hs =>
    ⟨fun c2 hw => execOn_stores hr hs hw, fun e hw => execOn_write_fails hr hs hw⟩⟩

/-- Settles O54: one step of each kind of RAM is the same, and leaves plain RAM; induction on the steps. -/
theorem stateRunsAsTheFlatRam : Obligations.StateRunsAsTheFlatRam := by
  intro admitGk n s h
  exact steps_flatRam admitGk n h

/-- Settles O55: devices that answer, call by call, what the Bus answered along the run. -/
theorem everyBusRunIsARunOfState : Obligations.EveryBusRunIsARunOfState := by
  intro BusState B admitGk n c b
  obtain ⟨trace, htrace⟩ := steps_traceBus B admitGk n c b []
  exact ⟨traceBus trace [], traceBus_wf trace [], rfl, htrace⟩

end Sys2Proof.Proofs
end

section
/-! SUPPORT. The decoder on a list of bytes: the encoding of an instruction is read back, the pairs without a contract
are refused by context and opcode, and what the dispatch reads from bytes it reads from a Bus that answers them. -/

namespace Sys2Proof

/-! ### An instruction and its encoding -/

/-- The three fields of an opcode byte put together from them (R66): the converse of `opcode_fields`. -/
theorem fields_append (k : BitVec 2) (y r : BitVec 3) : (k ++ y ++ r).extractLsb' 6 2 = k ∧
    (k ++ y ++ r).extractLsb' 3 3 = y ∧ (k ++ y ++ r).extractLsb' 0 3 = r := by
  revert k y r; decide

/-- The opcode byte of a form names that form (R66, R67): the converse of `shapeOfOpcode_opcode`. -/
@[simp] theorem shapeOfOpcode_of_opcode (p : Shape) : shapeOfOpcode p.index p.disp p.opcode = p := by
  cases p <;> simp [shapeOfOpcode, Shape.opcode, Shape.index, Shape.disp, fields_append]

/-- The decoder reads an instruction from its encoding, if it is admitted, and from no other bytes (R65, R67, R70). -/
theorem decodeWith_eq_instr_iff_encode {admitGk : Bool} {bytes rest : List Byte} {i : Instr} :
    decodeWith admitGk bytes = .instr i rest ↔ i.wf admitGk = true ∧ bytes = encode i ++ rest := by
  rw [decodeWith_eq_instr]
  constructor
  · rintro ⟨x, d, op, rfl, rfl, hw⟩
    exact ⟨hw, by simp [encode]⟩
  · rintro ⟨hw, rfl⟩
    exact ⟨i.toShape.index, i.toShape.disp, i.toShape.opcode, by simp [encode], by simp, hw⟩

@[simp] theorem tableBytes_length (nbits w : Nat) : (tableBytes nbits w).length = 4 := rfl

/-- A table word that decodes is the whole of its instruction: no byte is left over (R65). -/
theorem decode_of_decodeTableWord {nbits w : Nat} {i : Instr} (h : decodeTableWord nbits w = some i) :
    decode (tableBytes nbits w) = .instr i [] := by
  unfold decodeTableWord at h
  split at h
  · rename_i j rest hd
    cases h
    obtain ⟨-, hbytes⟩ := decodeWith_eq_instr_iff_encode.1 hd
    have hlen := congrArg List.length hbytes
    rw [tableBytes_length, List.length_append] at hlen
    have hrest : rest = [] := List.length_eq_zero_iff.1 (by simpa [encode] using hlen)
    rw [hd, hrest]
  · cases h
  · cases h

/-! ### The pairs without a contract -/

/-- A direct opcode has no contract in any context (R70, R71). -/
theorem decodeWith_of_direct (admitGk : Bool) {bytes rest : List Byte} {k : Context} {op : Byte}
    (h : select listSource bytes = .ok (.direct k op, rest)) : decodeWith admitGk bytes = .unspecified k op rest := by
  simp [decodeWith, h, lookup, Selected.context, Selected.op]

/-- A byte that enters no other context is an opcode of table none (R62). -/
theorem select_list_none {op : Byte} (rest : List Byte) (hcb : op ≠ cbByte) (hed : op ≠ edByte)
    (hx : op ≠ Index.byte .ix) (hy : op ≠ Index.byte .iy) :
    select listSource (op :: rest) = .ok (.direct .none op, rest) := by
  simp [select, listSource, hcb, hed, hx, hy]

/-- A byte after an index byte, other than 0xCB, is an opcode of the table of that index register (R62, D24). -/
theorem select_list_index (x : Index) {op : Byte} (rest : List Byte) (hcb : op ≠ cbByte) :
    select listSource (x.byte :: op :: rest) = .ok (.direct x.context op, rest) := by
  have henter : enterIndex listSource x (op :: rest) = .ok (.direct x.context op, rest) := by
    simp [enterIndex, listSource, hcb]
  rw [← henter]
  cases x <;> rfl

/-- What the decoder reads from the bytes of an indexed-bit-operation: its row, or, if that is not admitted, the
refusal. -/
theorem decodeWith_indexedBit (admitGk : Bool) (x : Index) (d op : Byte) (rest : List Byte) :
    decodeWith admitGk (x.byte :: cbByte :: d :: op :: rest) =
      if (Instr.ofShape (shapeOfOpcode x d op)).wf admitGk = true then
        .instr (Instr.ofShape (shapeOfOpcode x d op)) rest
      else .unspecified x.bitContext op rest := by
  by_cases hw : (Instr.ofShape (shapeOfOpcode x d op)).wf admitGk = true
  · simp only [decodeWith, select_list_indexedBit.2 rfl, lookup, if_pos hw]
  · simp only [decodeWith, select_list_indexedBit.2 rfl, lookup, if_neg hw, Selected.context, Selected.op]

/-- The operand forms of file 44. -/
def Shape.gk : Shape → Bool
  | .shift k _ _ _ => decide (k ≠ .rl) && decide (k ≠ .sra)
  | .bit _ _ _ _ => false
  | .res _ _ _ _ => true
  | .set _ _ _ _ => false

/-- The "gk" column by operand form. -/
@[simp] theorem Instr.toShape_gk (i : Instr) : i.toShape.gk = i.gk := by
  cases i <;> rfl

/-- The opcode bytes of file 44, as ranges (R71). -/
def GkOpcode (op : Byte) : Prop :=
  op.toNat < 0x10 ∨ 0x18 ≤ op.toNat ∧ op.toNat < 0x28 ∨ 0x30 ≤ op.toNat ∧ op.toNat < 0x40 ∨
    0x80 ≤ op.toNat ∧ op.toNat < 0xC0

/-- The rows of file 44 stand at those bytes, in both tables. -/
theorem shapeOfOpcode_gk (x : Index) (d op : Byte) : (shapeOfOpcode x d op).gk = true ↔ GkOpcode op := by
  have hsame : (shapeOfOpcode x d op).gk = (shapeOfOpcode .ix 0#8 op).gk := by
    unfold shapeOfOpcode; dsimp only; split <;> rfl
  rw [hsame]
  clear hsame
  unfold GkOpcode
  revert op; decide

/-- Without `ADMIT_GK_EXT` exactly the opcode bytes of file 44 are refused (R71). -/
theorem decodeWith_false_refuses (x : Index) (d op : Byte) (rest : List Byte) :
    decodeWith false (x.byte :: cbByte :: d :: op :: rest) = .unspecified x.bitContext op rest ↔
      GkOpcode op := by
  rw [← shapeOfOpcode_gk x d op, decodeWith_indexedBit, Instr.wf, ← Instr.toShape_gk, Instr.toShape_ofShape]
  cases (shapeOfOpcode x d op).gk <;> simp

/-- With it every opcode byte is read (R71). -/
theorem decodeWith_true_reads (x : Index) (d op : Byte) (rest : List Byte) :
    ∃ i, decodeWith true (x.byte :: cbByte :: d :: op :: rest) = .instr i rest :=
  ⟨_, (decodeWith_indexedBit true x d op rest).trans (if_pos rfl)⟩

/-- The decoder refuses what the dispatch selects and the tables have no contract for. -/
theorem decodeWith_unspecified {admitGk : Bool} {bytes rest : List Byte} {k : Context} {op : Byte}
    (h : decodeWith admitGk bytes = .unspecified k op rest) : ∃ sel, select listSource bytes = .ok (sel, rest) ∧
      lookup admitGk sel = none ∧ sel.context = k ∧ sel.op = op := by
  unfold decodeWith at h
  split at h
  · cases h
  rename_i sel rest' hs
  split at h
  · rename_i hl; cases h; exact ⟨sel, hs, hl, rfl, rfl⟩
  · cases h

/-! ### The dispatch over two sources of bytes -/

/-- A source of bytes that answers, on related states, whatever another one answers. -/
structure ByteSource.Follows {σ τ ε φ : Type} (src : ByteSource σ ε) (dst : ByteSource τ φ) (R : σ → τ → Prop) :
    Prop where
  next : ∀ {s s' t v}, R s t → src.next s = .ok (v, s') → ∃ t', dst.next t = .ok (v, t') ∧ R s' t'
  mark : ∀ {s t} (x : Index), R s t → R (src.mark x s) (dst.mark x t)

section
variable {σ τ ε φ : Type} {src : ByteSource σ ε} {dst : ByteSource τ φ} {R : σ → τ → Prop} {s s' : σ} {t : τ}
  {sel : Selected}

/-- Each state of the dispatch selects the same on a source that follows another (R62). -/
theorem enterTable_follows (hf : src.Follows dst R) {k : Context} (hR : R s t)
    (h : enterTable src k s = .ok (sel, s')) : ∃ t', enterTable dst k t = .ok (sel, t') ∧ R s' t' := by
  unfold enterTable at h
  split at h
  · cases h
  rename_i op s1 h0
  cases h
  obtain ⟨t1, h0', hR1⟩ := hf.next hR h0
  exact ⟨t1, by simp only [enterTable, h0'], hR1⟩

theorem fetchDisplacement_follows (hf : src.Follows dst R) {x : Index} (hR : R s t)
    (h : fetchDisplacement src x s = .ok (sel, s')) : ∃ t', fetchDisplacement dst x t = .ok (sel, t') ∧ R s' t' := by
  unfold fetchDisplacement at h
  split at h
  · cases h
  rename_i d s1 h0
  split at h
  · cases h
  rename_i op s2 h1
  cases h
  obtain ⟨t1, h0', hR1⟩ := hf.next hR h0
  obtain ⟨t2, h1', hR2⟩ := hf.next hR1 h1
  exact ⟨t2, by simp only [fetchDisplacement, h0', h1'], hR2⟩

theorem enterIndex_follows (hf : src.Follows dst R) {x : Index} (hR : R s t)
    (h : enterIndex src x s = .ok (sel, s')) : ∃ t', enterIndex dst x t = .ok (sel, t') ∧ R s' t' := by
  unfold enterIndex at h
  split at h
  · cases h
  rename_i b1 s1 h0
  obtain ⟨t1, h0', hR1⟩ := hf.next (hf.mark x hR) h0
  simp only [enterIndex, h0']
  split at h
  · rename_i hcb
    rw [if_pos hcb]
    exact fetchDisplacement_follows hf hR1 h
  · rename_i hcb
    cases h
    exact ⟨t1, by rw [if_neg hcb], hR1⟩

theorem select_follows (hf : src.Follows dst R) (hR : R s t) (h : select src s = .ok (sel, s')) :
    ∃ t', select dst t = .ok (sel, t') ∧ R s' t' := by
  unfold select at h
  split at h
  · cases h
  rename_i b0 s1 h0
  obtain ⟨t1, h0', hR1⟩ := hf.next hR h0
  simp only [select, h0']
  by_cases hcb : b0 = cbByte
  · rw [if_pos hcb] at h ⊢; exact enterTable_follows hf hR1 h
  rw [if_neg hcb] at h ⊢
  by_cases hed : b0 = edByte
  · rw [if_pos hed] at h ⊢; exact enterTable_follows hf hR1 h
  rw [if_neg hed] at h ⊢
  by_cases hx : b0 = Index.byte .ix
  · rw [if_pos hx] at h ⊢; exact enterIndex_follows hf hR1 h
  rw [if_neg hx] at h ⊢
  by_cases hy : b0 = Index.byte .iy
  · rw [if_pos hy] at h ⊢; exact enterIndex_follows hf hR1 h
  rw [if_neg hy] at h ⊢
  cases h
  exact ⟨t1, rfl, hR1⟩

end

namespace Machine

/-- The Bus answers these bytes from pc on. -/
def Answers (bytes : List Byte) (p : CoreState × Bus) : Prop := ∃ n b', p.2.readBytes p.1.pc n = .ok (bytes, b')

/-- The Bus as a source of bytes follows the list of the bytes it answers. -/
theorem busSource_follows_listSource : listSource.Follows (busSource Bus.interface) Answers where
  next := by
    rintro (_ | ⟨v, vs⟩) rest ⟨c, b⟩ w ⟨n, b', hr⟩ h
    · cases h
    cases h
    cases n with
    | zero => cases hr
    | succ n =>
      obtain ⟨v', b1, ws, h0, hr', hv⟩ := Bus.readBytes_succ hr
      cases hv
      exact ⟨({ c with pc := c.pc + 1#16 }, b1), fetchByte_ok.2 ⟨b1, h0, rfl⟩, n, b', hr'⟩
  mark := fun x h => h

/-- A step on bytes without a contract is refused by context and opcode (R70). -/
theorem stepWith_unspecified {admitGk : Bool} {s : State} {n : Nat} {b : Bus} {bytes rest : List Byte} {k : Context}
    {op : Byte} (hr : s.bus.readBytes s.pc n = .ok (bytes, b))
    (hd : decodeWith admitGk bytes = .unspecified k op rest) :
    stepWith admitGk s = .refused (.unspecified k op) := by
  obtain ⟨sel, hs, hl, rfl, rfl⟩ := decodeWith_unspecified hd
  obtain ⟨q, hq, -⟩ := select_follows busSource_follows_listSource (t := s.split) ⟨n, b, hr⟩ hs
  have hf : fetchInstr Bus.interface admitGk s.split = .unspecified sel.context sel.op := by
    simp only [fetchInstr, hq, hl]
  simp only [stepWith, hf]

end Machine
end Sys2Proof
end

section
/-! SUPPORT. An instruction on the Bus of `State`, its exchange of index registers, and a program placed at pc. -/

namespace Sys2Proof

/-! ### The index register of an operand form -/

/-- An operand form with another index register. -/
def Shape.withIndex (y : Index) : Shape → Shape
  | .shift k _ save d => .shift k y save d
  | .bit _ b r d => .bit y b r d
  | .res _ b save d => .res y b save d
  | .set _ b save d => .set y b save d

@[simp] theorem Shape.withIndex_index (y : Index) (p : Shape) : (p.withIndex y).index = y := by cases p <;> rfl
@[simp] theorem Shape.withIndex_disp (y : Index) (p : Shape) : (p.withIndex y).disp = p.disp := by cases p <;> rfl
@[simp] theorem Shape.withIndex_cost (y : Index) (p : Shape) : (p.withIndex y).cost = p.cost := by
  cases p with
  | shift k => cases k <;> rfl
  | bit => rfl
  | res => rfl
  | set => rfl

/-- Both tables hold the same form at an opcode byte, but for the index register (R75, R113). -/
theorem shapeOfOpcode_withIndex (x y : Index) (d op : Byte) :
    (shapeOfOpcode x d op).withIndex y = shapeOfOpcode y d op := by
  unfold shapeOfOpcode; dsimp only; split <;> rfl

namespace Machine

@[simp] theorem withIndex_copyTarget (y : Index) (p : Shape) : copyTarget (p.withIndex y) = copyTarget p := by
  cases p <;> rfl
@[simp] theorem withIndex_testedBit (y : Index) (p : Shape) : testedBit (p.withIndex y) = testedBit p := by
  cases p <;> rfl
@[simp] theorem withIndex_computed (y : Index) (p : Shape) : computed (p.withIndex y) = computed p := by
  cases p <;> rfl

@[simp] theorem State.swapIndex_bus (s : State) : s.swapIndex.bus = s.bus := rfl
@[simp] theorem State.swapIndex_flags (s : State) : s.swapIndex.flags = s.flags := rfl

theorem ea_swapIndex (p : Shape) (s : State) :
    (Instr.ofShape (p.withIndex .iy)).ea s.swapIndex = (Instr.ofShape (p.withIndex .ix)).ea s := by
  simp only [Instr.ea, Instr.toShape_ofShape, Shape.withIndex_index, Shape.withIndex_disp]
  rfl

theorem rmwNext_swapIndex (p : Shape) (c : Computed) (b : Bus) (s : State) :
    rmwNext (p.withIndex .iy) c b s.swapIndex = (rmwNext (p.withIndex .ix) c b s).swapIndex := by
  simp only [rmwNext, rmwCore, Shape.withIndex_index, withIndex_copyTarget, Shape.withIndex_cost]
  rcases copyTarget p with _ | q <;> rcases c.flags with _ | f <;> rfl

theorem bitNext_swapIndex (p : Shape) (v : Byte) (b : Bus) (s : State) :
    bitNext (p.withIndex .iy) v b s.swapIndex = (bitNext (p.withIndex .ix) v b s).swapIndex := by
  simp only [bitNext, bitCore, Shape.withIndex_index, Shape.withIndex_disp, withIndex_testedBit, Shape.withIndex_cost]
  rfl

/-- The forms of the two index registers do the same with the registers exchanged (R75, R113). -/
theorem exec_swapIndex (p : Shape) (s : State) : exec (Instr.ofShape (p.withIndex .iy)) s.swapIndex =
    mapNext State.swapIndex (exec (Instr.ofShape (p.withIndex .ix)) s) := by
  rcases hc : computed p with _ | op
  · rw [exec_bit (by simpa using hc), exec_bit (by simpa using hc), ea_swapIndex, State.swapIndex_bus]
    rcases s.bus.read ((Instr.ofShape (p.withIndex .ix)).ea s) with e | ⟨v, b1⟩
    · rfl
    · simp [bitNext_swapIndex]
  · rw [exec_rmw (op := op) (by simpa using hc), exec_rmw (op := op) (by simpa using hc), ea_swapIndex,
      State.swapIndex_bus, State.swapIndex_flags]
    rcases s.bus.read ((Instr.ofShape (p.withIndex .ix)).ea s) with e | ⟨v, b1⟩
    · rfl
    dsimp only
    rcases b1.write ((Instr.ofShape (p.withIndex .ix)).ea s) (op v s.flags).res with e | b2
    · rfl
    · simp [rmwNext_swapIndex]

/-! ### An instruction by the answers of its Bus calls -/

/-- BIT completes once its read is answered: with `exec_read_fails`, `exec_write_fails` and `exec_stores` all that an
instruction can do. -/
theorem exec_reads {i : Instr} {s : State} {v : Byte} {b1 : Bus} (hr : s.bus.read (i.ea s) = .ok (v, b1))
    (hn : storedByte i.toShape v (s.flag .c) = none) :
    exec i s = .next (State.join (coreAfter i.toShape v s.toCoreState, b1)) := by
  rw [exec_eq_execOn, State.split, execOn_reads (B := Bus.interface) hr hn, mapNext_next]

/-- An instruction that faults surfaces the failure of its read or, that read answered, of its write (R173). -/
theorem exec_fault {i : Instr} {s : State} {f : Fault} (h : exec i s = .fault f) : ∃ e, f = .busFailure e ∧
    (s.bus.read (i.ea s) = .error e ∨ ∃ v b1 w, s.bus.read (i.ea s) = .ok (v, b1) ∧
      storedByte i.toShape v (s.flag .c) = some w ∧ b1.write (i.ea s) w = .error e) := by
  rcases hr : s.bus.read (i.ea s) with e | ⟨v, b1⟩
  · rw [exec_read_fails hr] at h
    cases h
    exact ⟨e, rfl, .inl rfl⟩
  rcases hs : storedByte i.toShape v (s.flag .c) with _ | w
  · rw [exec_reads hr hs] at h
    cases h
  rcases hw : b1.write (i.ea s) w with e | b2
  · rw [exec_write_fails hr hs hw] at h
    cases h
    exact ⟨e, rfl, .inr ⟨v, b1, w, rfl, hs, hw⟩⟩
  · rw [exec_stores hr hs hw] at h
    cases h

/-- On a Bus that keeps its contract every instruction completes, and the contract still holds (R42, R69). -/
theorem exec_total (i : Instr) {s : State} (h : s.bus.neverFails = true) :
    ∃ t, exec i s = .next t ∧ t.bus.neverFails = true := by
  obtain ⟨⟨cost, c⟩, b', hrun, hb'⟩ :=
    (handlerOf i.toShape (s.toCoreState.enter i.toShape.index)).run_total s.bus h
  refine ⟨State.join (c.complete cost, b'), ?_, hb'⟩
  rw [exec_eq_execOn, execOn, runHandlerOn, State.split_fst, State.split_snd, hrun]
  rfl

/-! ### Bytes placed by the host's loader -/

/-- Memory from an address on is plain RAM that holds these bytes. -/
def Bus.Holds (b : Bus) : Word → List Byte → Prop
  | _, [] => True
  | a, v :: vs => (b.isRam a ∧ b.peek a = v) ∧ b.Holds (a + 1#16) vs

/-- What a Bus answers depends on what it holds, not on the calls made before. -/
theorem Bus.Holds.log {b : Bus} {a : Word} {vs : List Byte} (call : BusCall) (h : b.Holds a vs) :
    (b.log call).Holds a vs := by
  induction vs generalizing a with
  | nil => trivial
  | cons v vs ih => exact ⟨h.1, ih h.2⟩

/-- The Bus answers the bytes it holds. -/
theorem Bus.readBytes_of_holds {b : Bus} {a : Word} {vs : List Byte} (h : b.Holds a vs) :
    ∃ b', b.readBytes a vs.length = .ok (vs, b') := by
  induction vs generalizing b a with
  | nil => exact ⟨b, rfl⟩
  | cons v vs ih =>
    obtain ⟨⟨hram, rfl⟩, hrest⟩ := h
    obtain ⟨b', hr⟩ := ih (hrest.log (.read a (b.peek a)))
    simp only [Bus.readBytes, Bus.interface] at hr
    refine ⟨b', ?_⟩
    simp only [Bus.readBytes, Bus.interface, List.length_cons, readBytesOn, Bus.read_ram hram, hr]

theorem backingAt_filter_ne (l : List (Nat × Backing)) (a c : Nat) :
    backingAt (l.filter (fun e => decide (e.1 ≠ a))) c = if c = a then none else backingAt l c := by
  induction l with
  | nil => simp [backingAt]
  | cons e l ih =>
    obtain ⟨k, e⟩ := e
    by_cases hk : k = a
    · rw [List.filter_cons_of_neg (by simpa using hk), ih, backingAt]
      split
      · rfl
      · rw [if_neg (by omega)]
    · rw [List.filter_cons_of_pos (by simpa using hk), backingAt, ih, backingAt]
      by_cases hc : c = k
      · simp [hc, hk]
      · simp [hc]

/-- The loader makes its address plain RAM with the byte given. -/
theorem Bus.load_same (b : Bus) (a : Word) (v : Byte) : (b.load a v).isRam a ∧ (b.load a v).peek a = v := by
  constructor
  · rw [Bus.isRam, Bus.backing, Bus.load, backingAt_filter_ne, if_pos rfl]
  · rw [Bus.peek, Bus.load, Memory.read_write, if_pos rfl]

/-- The loader leaves every other address. -/
theorem Bus.load_other (b : Bus) {a c : Word} (v : Byte) (h : c ≠ a) :
    (b.load a v).backing c = b.backing c ∧ (b.load a v).peek c = b.peek c := by
  simp only [Bus.backing, Bus.peek, Bus.load, backingAt_filter_ne, Memory.read_write, if_neg (Word.toNat_ne h),
    and_self]

/-- Placing bytes leaves every address it does not reach. -/
theorem Bus.loadBytes_other {b : Bus} {a c : Word} {vs : List Byte}
    (h : ∀ k < vs.length, c ≠ a + BitVec.ofNat 16 k) :
    (b.loadBytes a vs).backing c = b.backing c ∧ (b.loadBytes a vs).peek c = b.peek c := by
  induction vs generalizing b a with
  | nil => exact ⟨rfl, rfl⟩
  | cons v vs ih =>
    have ha : c ≠ a := by simpa using h 0 (by simp)
    have hrest : ∀ k < vs.length, c ≠ a + 1#16 + BitVec.ofNat 16 k := fun k hk => by
      rw [BitVec.add_assoc, ← BitVec.ofNat_add, Nat.add_comm]
      exact h (k + 1) (by simpa using hk)
    obtain ⟨hback, hpeek⟩ := b.load_other v ha
    obtain ⟨hback', hpeek'⟩ := ih (b := b.load a v) hrest
    exact ⟨hback'.trans hback, hpeek'.trans hpeek⟩

/-- Bytes placed from an address on stand there, if they do not reach round the address space. -/
theorem Bus.loadBytes_holds (b : Bus) (a : Word) {vs : List Byte} (h : vs.length ≤ 0x10000) :
    (b.loadBytes a vs).Holds a vs := by
  induction vs generalizing b a with
  | nil => trivial
  | cons v vs ih =>
    simp only [List.length_cons] at h
    have hne : ∀ k < vs.length, a ≠ a + 1#16 + BitVec.ofNat 16 k := fun k hk => by
      bv_omega
    obtain ⟨hback, hpeek⟩ := Bus.loadBytes_other (b := b.load a v) hne
    obtain ⟨hram, hv⟩ := b.load_same a v
    exact ⟨⟨hback.trans hram, hpeek.trans hv⟩, ih (b.load a v) (a + 1#16) (by omega)⟩

/-- A table word that decodes, placed at pc, is what the next step runs (R65, R192). -/
theorem step_withFetchWord {s : State} {nbits w : Nat} {i : Instr} (h : decodeTableWord nbits w = some i) :
    ∃ b4, (s.withFetchWord nbits w).bus.readBytes s.pc 4 = .ok (tableBytes nbits w, b4) ∧
      step (s.withFetchWord nbits w) = exec i (fetchedState s i.toShape.index b4) := by
  obtain ⟨b4, hr⟩ := Bus.readBytes_of_holds (s.bus.loadBytes_holds s.pc (vs := tableBytes nbits w) (by simp))
  rw [tableBytes_length] at hr
  exact ⟨b4, hr, stepWith_of_readBytes (s := s.withFetchWord nbits w) hr (decode_of_decodeTableWord h)⟩

end Machine
end Sys2Proof
end

section
/-! SUPPORT. The obligations of the family of the encoding, each settled from the facts above. -/

open Sys2Proof Sys2Proof.Machine

namespace Sys2Proof.Proofs

/-- Settles O1: the fields of the opcode byte are read back as they were put together. -/
theorem encodeThenDecode : Obligations.EncodeThenDecode := by
  intro admitGk i rest hw
  exact decodeWith_eq_instr_iff_encode.2 ⟨hw, rfl⟩

/-- Settles O2: the same equivalence, read the other way. -/
theorem decodeThenEncode : Obligations.DecodeThenEncode := by
  intro admitGk i bytes rest h
  exact decodeWith_eq_instr_iff_encode.1 h

/-- Settles O3: what the dispatch selects in each context, and the opcode bytes of the rows of file 44. -/
theorem refusedSpaceExact : Obligations.RefusedSpaceExact := by
  refine ⟨fun g op rest hcb hed hx hy => ?none, fun g op rest => ?cb, fun g op rest => ?ed, fun g op rest hcb => ?index,
    fun d op rest => ?without, fun d op rest => ?withExt⟩
  case none => exact decodeWith_of_direct g (select_list_none rest hcb hed hx hy)
  case cb => exact decodeWith_of_direct g rfl
  case ed => exact decodeWith_of_direct g rfl
  case index =>
    exact ⟨decodeWith_of_direct g (select_list_index .ix rest hcb),
      decodeWith_of_direct g (select_list_index .iy rest hcb)⟩
  case without => exact ⟨decodeWith_false_refuses .ix d op rest, decodeWith_false_refuses .iy d op rest⟩
  case withExt => exact ⟨decodeWith_true_reads .ix d op rest, decodeWith_true_reads .iy d op rest⟩

/-- Settles O5: the two rows are one form with the two index registers. -/
theorem tablesShareHandlers : Obligations.TablesShareHandlers := by
  intro d op s
  have h := exec_swapIndex (shapeOfOpcode .ix d op) s
  rw [shapeOfOpcode_withIndex, shapeOfOpcode_withIndex] at h
  exact ⟨fun t ht => by rw [h, ht, mapNext_next], fun f hf => by rw [h, hf, mapNext_fault]⟩

/-- Settles O7: the dispatch over the Bus selects what it selects over the bytes the Bus answers. -/
theorem stepRefusesUnspecified : Obligations.StepRefusesUnspecified := by
  intro admitGk s n bytes b k op hr hd
  exact stepWith_unspecified hr hd

/-- Settles O10: an instruction's outcome by the answers of its calls. -/
theorem instructionsFaultOnlyOnBusFailure : Obligations.InstructionsFaultOnlyOnBusFailure := by
  intro i s
  exact ⟨exec_ne_refused i s, fun f hf => exec_fault hf⟩

/-- Settles O11: the handler's Bus calls are all answered, and what a completed instruction leaves is known. -/
theorem everyInstructionCompletes : Obligations.EveryInstructionCompletes := by
  intro i s h
  obtain ⟨t, he, hb⟩ := exec_total i h
  exact ⟨t, he, exec_cyc he, exec_pfx he, exec_pc he, hb⟩

/-- Settles O23: the Bus answers the bytes that the loader placed. -/
theorem placedWordIsTheNextInstruction : Obligations.PlacedWordIsTheNextInstruction := by
  intro s w i h
  exact step_withFetchWord h

/-- Settles O4: each word is run through the decoder. -/
theorem sampleWordsDecode : Obligations.SampleWordsDecode := by
  unfold Obligations.SampleWordsDecode
  decide

end Sys2Proof.Proofs
end

section
/-! SUPPORT. The effective address as a number, a flag mask as a selector of one bit, and what BIT leaves, field by field. -/

namespace Sys2Proof.Machine

/-- The effective address is the sum of the base and the signed displacement, as an integer, in 16 bits (R102). -/
theorem resolveIndexed_eq_ofInt (base : Word) (d : Byte) :
    resolveIndexed base d = BitVec.ofInt 16 (base.toNat + d.toInt) := by
  rw [BitVec.ofInt_add, BitVec.ofInt_natCast, BitVec.ofNat_toNat, BitVec.setWidth_eq]
  rfl

theorem resolveIndexed_toNat (base : Word) (d : Byte) :
    ((resolveIndexed base d).toNat : Int) = (base.toNat + d.toInt) % 0x10000 := by
  rw [resolveIndexed_eq_ofInt, BitVec.toNat_ofInt]
  exact Int.toNat_of_nonneg (Int.emod_nonneg _ (by decide))

/-- With the marker of an index register set, the address is taken from that register (R102, R113). -/
theorem CoreState.ea_of_marker {c : CoreState} {x : Index} (h : c.pfx = x.marker) (d : Byte) :
    c.ea d = resolveIndexed (c.index x) d := by
  have hc : c.enter x = c := by rw [CoreState.enter, ← h]
  rw [← CoreState.enter_ea, hc]

/-- A flag's mask selects its bit of a byte. -/
theorem and_flagMask (v : Byte) (fl : Flag) :
    v &&& Config.flagMask fl = if v.getLsbD (flagBit fl) then Config.flagMask fl else 0#8 := by
  rw [flagMask_eq_twoPow, BitVec.and_twoPow]

/-- The state BIT leaves: F, the marker, the cycle counter and the Bus are written, nothing else (R112). -/
theorem bitNext_eq (x : Index) (b r : BitVec 3) (d v : Byte) (b1 : Bus) (s : State) :
    bitNext (.bit x b r d) v b1 s = { s with
      regs := { s.regs with f := bitFlags (v &&& bitMask b) (resolveIndexed (s.index x) d) s.regs.f }
      pfx := .none
      cyc := s.cyc + Config.costBit
      bus := b1 } := rfl

/-- BIT completes once the read of its address is answered. -/
theorem exec_bit_of_read {i : Instr} {x : Index} {b r : BitVec 3} {d v : Byte} {s : State} {b1 : Bus}
    (hi : i.toShape = .bit x b r d) (hr : s.bus.read (resolveIndexed (s.index x) d) = .ok (v, b1)) :
    exec i s = .next (bitNext (.bit x b r d) v b1 s) := by
  have hc : computed i.toShape = none := by rw [hi]; rfl
  have hea : i.ea s = resolveIndexed (s.index x) d := by rw [Instr.ea, hi]; rfl
  simp only [exec_bit hc, hea, hr, hi]

end Sys2Proof.Machine
end

section
/-! SUPPORT. The obligations of the family of the flag library and addressing, each settled from the facts above. -/

open Sys2Proof Sys2Proof.Machine

namespace Sys2Proof.Proofs

/-- Settles O24: the state BIT leaves, with its flags byte written out. -/
theorem bitResult : Obligations.BitResult := by
  intro i x b r d s v t f ea b1 hi hea hr ht hf
  subst hea ht hf
  rw [exec_bit_of_read hi hr, bitNext_eq]
  rfl

/-- Settles O45: the displacement is sign-extended, the marker names the base, and no instruction writes an index
register. -/
theorem indexedAddressWraps : Obligations.IndexedAddressWraps := by
  refine ⟨fun base d => ⟨d.le_toInt, ?_, resolveIndexed_toNat base d⟩, fun s d => ⟨?_, ?_⟩, fun i s t h => ?_⟩
  · exact Int.le_of_lt_add_one BitVec.toInt_lt
  · exact fun h => CoreState.ea_of_marker (x := .ix) h d
  · exact fun h => CoreState.ea_of_marker (x := .iy) h d
  · obtain ⟨-, hix, hiy, -, -⟩ := exec_sameUntouched h
    exact ⟨hix, hiy⟩

/-- Settles O46: the eight values of the switch, and what a write to one register leaves. -/
theorem saveSubFieldTable : Obligations.SaveSubFieldTable := by
  refine ⟨rfl, rfl, rfl, rfl, rfl, rfl, rfl, rfl, CoreState.save_none, fun s q p v => ⟨?_, fun hne => ?_, ?_⟩⟩
  · exact s.setReg_reg_same q v
  · exact s.setReg_reg_other v hne
  · exact s.save_flags (some q) v

/-- Settles O47: X5 and X3 of a byte are selected by their masks; the other five are contributions by definition. -/
theorem flagLibraryValues : Obligations.FlagLibraryValues := by
  intro v a
  exact ⟨rfl, zeroCheck_eq v, parity_eq v, and_flagMask v .x5, and_flagMask v .x3, rfl, rfl⟩

end Sys2Proof.Proofs
end

section
/-! SUPPORT. The rotates and shifts: the whole state one of them leaves, and its byte and carry on RAM; RL as a rotation
of nine bits; SRA as an arithmetic shift. -/

namespace Sys2Proof.Machine

/-! ### The state a rotate or shift leaves -/

/-- The state a rotate or shift leaves: the copy register, F, the marker, the cycle counter and the Bus are written,
nothing else (R120, R140). -/
theorem rmwNext_shift_eq (k : ShiftKind) (x : Index) (save : Option Reg8) (d res f : Byte) (b : Bus) (s : State) :
    rmwNext (.shift k x save d) { res := res, flags := some f } b s = { s with
      regs := { s.regs.copied save res with f := f }
      pfx := .none
      cyc := s.cyc + (Shape.shift k x save d).cost
      bus := b } := by
  cases save <;> rfl

/-- A rotate or shift completes once the read and the write of its address are answered. -/
theorem exec_shift_of_calls {i : Instr} {k : ShiftKind} {x : Index} {save : Option Reg8} {d v res : Byte} {s : State}
    {b1 b2 : Bus} (hi : i.toShape = .shift k x save d)
    (hr : s.bus.read (resolveIndexed (s.index x) d) = .ok (v, b1))
    (hres : storedByte (.shift k x save d) v (s.flag .c) = some res)
    (hw : b1.write (resolveIndexed (s.index x) d) res = .ok b2) :
    exec i s = .next { s with
      regs := { s.regs.copied save res with f := shiftFlags res (carriedOut v k) }
      pfx := .none
      cyc := s.cyc + (Shape.shift k x save d).cost
      bus := b2 } := by
  obtain ⟨op, hop, hv⟩ := Option.map_eq_some_iff.1 (computed_shift k x save d v s.flags res hres)
  have hc : computed i.toShape = some op := by rw [hi, hop]
  have hea : i.ea s = resolveIndexed (s.index x) d := by rw [Instr.ea, hi]; rfl
  simp only [exec_rmw hc, hea, hr, hv, hw, hi, rmwNext_shift_eq]

/-- On an address that behaves as RAM, a rotate or shift completes with its byte stored and its carry in C; address and
RAM are as before. -/
theorem exec_shift_ram {i : Instr} {k : ShiftKind} {x : Index} {save : Option Reg8} {d res : Byte} {s : State}
    (hi : i.toShape = .shift k x save d) (hb : s.bus.isRam (i.ea s))
    (hres : storedByte i.toShape (s.bus.peek (i.ea s)) (s.flag .c) = some res) :
    ∃ t, exec i s = .next t ∧ t.bus.isRam (i.ea s) ∧ i.ea t = i.ea s ∧ t.bus.peek (i.ea s) = res ∧
      t.flag .c = carriedOut (s.bus.peek (i.ea s)) k := by
  obtain ⟨t, he, -, hram, hpeek, -⟩ := exec_ram hb hres
  refine ⟨t, he, hram, (exec_sameUntouched he).ea i, by simp [hpeek], ?_⟩
  rw [CoreState.flag, exec_shift_flags hi (Bus.read_ram hb) hres he, flagOf_shiftFlags]

/-! ### RL, RR and SRA bit by bit -/

/-- A byte that holds one condition at bit `j`, bit by bit: how RL and RR take the carry in. -/
theorem getLsbD_ite_twoPow (c : Bool) {j : Nat} (hj : j < 8) (k : Nat) :
    (if c then BitVec.twoPow 8 j else 0#8).getLsbD k = (c && decide (j = k)) := by
  cases c <;> simp [hj]

/-- RL moves each bit up by one and takes the carry in at bit 0 (R122). -/
theorem rlFn_getLsbD (v : Byte) (c : Bool) {k : Nat} (hk : k < 8) :
    (rlFn v c).1.getLsbD k = if k = 0 then c else v.getLsbD (k - 1) := by
  have hin : (if c then 1#8 else 0#8).getLsbD k = (c && decide (0 = k)) :=
    getLsbD_ite_twoPow c (j := 0) (by decide) k
  rw [rlFn, BitVec.getLsbD_or, BitVec.getLsbD_shiftLeft, hin]
  cases k <;> simp [hk]

/-- RR moves each bit down by one and takes the carry in at bit 7 (R143). -/
theorem rrFn_getLsbD (v : Byte) (c : Bool) (k : Nat) :
    (rrFn v c).1.getLsbD k = if k = 7 then c else v.getLsbD (k + 1) := by
  have hin : (if c then 0x80#8 else 0#8).getLsbD k = (c && decide (7 = k)) :=
    getLsbD_ite_twoPow c (j := 7) (by decide) k
  rw [rrFn, BitVec.getLsbD_or, BitVec.getLsbD_ushiftRight, hin, Nat.add_comm]
  by_cases h7 : k = 7
  · simp [h7]
  · simp [h7, Ne.symm h7]

/-- SRA is RR with the sign bit as the carry taken in (R124). -/
theorem sraFn_eq_rrFn (v : Byte) (c : Bool) : sraFn v c = rrFn v (v.getLsbD 7) := by
  have hsign : v &&& 0x80#8 = if v.getLsbD 7 then 0x80#8 else 0#8 := BitVec.and_twoPow v 7
  rw [sraFn, rrFn, hsign]

/-! ### RL as a rotation of nine bits -/

/-- The byte at an address and the carry: what RL on that address works on. -/
def State.byteAndCarry (s : State) (a : Word) : Byte × Bool := (s.bus.peek a, s.flag .c)

/-- On an address that behaves as RAM, `n` runs of RL are `n` applications of `rlFn` to byte and carry. -/
theorem execTimes_rl_ram {i : Instr} {x : Index} {save : Option Reg8} {d : Byte} (hi : i.toShape = .shift .rl x save d)
    (n : Nat) {s : State} (hb : s.bus.isRam (i.ea s)) :
    ∃ t, execTimes n i s = .next t ∧
      t.byteAndCarry (i.ea s) = rlFn.uncurry^[n] (s.byteAndCarry (i.ea s)) := by
  induction n generalizing s with
  | zero => exact ⟨s, rfl, rfl⟩
  | succ n ih =>
    have hres : storedByte i.toShape (s.bus.peek (i.ea s)) (s.flag .c) =
        some (rlFn (s.bus.peek (i.ea s)) (s.flag .c)).1 := by rw [hi]; rfl
    obtain ⟨u, he, hram, hea, hpeek, hcarry⟩ := exec_shift_ram hi hb hres
    have hu : u.byteAndCarry (i.ea s) = rlFn.uncurry (s.byteAndCarry (i.ea s)) := by
      rw [State.byteAndCarry, hpeek, hcarry]; rfl
    rw [← hea] at hram
    obtain ⟨t, ht, hbc⟩ := ih hram
    rw [hea, hu] at hbc
    exact ⟨t, (execTimes_succ_of_next he).trans ht, hbc⟩

/-- The carry and the byte as one word of nine bits, the carry at bit 8. -/
def nineBits (p : Byte × Bool) : BitVec 9 := BitVec.cons p.2 p.1

theorem nineBits_injective : Function.Injective nineBits := by
  intro p q h
  have hbit : ∀ k, (nineBits p).getLsbD k = (nineBits q).getLsbD k := fun k => by rw [h]
  simp only [nineBits, BitVec.getLsbD_cons] at hbit
  refine Prod.ext (BitVec.eq_of_getLsbD_eq fun k hk => ?_) (by simpa using hbit 8)
  simpa [hk.ne] using hbit k

/-- RL is a rotation of the nine bits (R122): each comes from the one below it, bit 0 from bit 8. -/
theorem nineBits_rlFn_getLsbD (p : Byte × Bool) {k : Nat} (hk : k < 9) :
    (nineBits (rlFn.uncurry p)).getLsbD k = (nineBits p).getLsbD ((k + 8) % 9) := by
  obtain ⟨v, c⟩ := p
  rw [nineBits, nineBits, BitVec.getLsbD_cons, BitVec.getLsbD_cons, Function.uncurry]
  obtain rfl | hk8 : k = 8 ∨ k < 8 := by omega
  · rfl
  · rw [if_neg hk8.ne, rlFn_getLsbD v c hk8]
    cases k with
    | zero => rfl
    | succ k =>
      have hfrom : (k + 1 + 8) % 9 = k := by omega
      rw [hfrom, if_neg (by omega), if_neg (by omega), Nat.add_sub_cancel]

/-- After `n` runs of RL each of the nine bits comes from the one `n` below it, that is `8 * n` above it. -/
theorem nineBits_rlFn_iterate_getLsbD (n : Nat) (p : Byte × Bool) {k : Nat} (hk : k < 9) :
    (nineBits (rlFn.uncurry^[n] p)).getLsbD k = (nineBits p).getLsbD ((k + 8 * n) % 9) := by
  induction n generalizing p with
  | zero => rw [Nat.mul_zero, Nat.add_zero, Nat.mod_eq_of_lt hk]; rfl
  | succ n ih =>
    have hfrom : ((k + 8 * n) % 9 + 8) % 9 = (k + 8 * (n + 1)) % 9 := by omega
    rw [Function.iterate_succ_apply, ih, nineBits_rlFn_getLsbD p (Nat.mod_lt _ (by decide)), hfrom]

theorem rlFn_nine_times (p : Byte × Bool) : rlFn.uncurry^[9] p = p := by
  refine nineBits_injective (BitVec.eq_of_getLsbD_eq fun k hk => ?_)
  have hfrom : (k + 8 * 9) % 9 = k := by omega
  rw [nineBits_rlFn_iterate_getLsbD 9 p hk, hfrom]

/-- RR is undone by RL: it rotates the same nine bits right. -/
theorem rlFn_rrFn (v : Byte) (c : Bool) : rlFn.uncurry (rrFn v c) = (v, c) := by
  refine Prod.ext (BitVec.eq_of_getLsbD_eq fun k hk => ?_) (rrFn_getLsbD v c 7)
  rw [Function.uncurry, rlFn_getLsbD _ _ hk]
  cases k with
  | zero => rfl
  | succ k => rw [if_neg (by omega), Nat.add_sub_cancel, rrFn_getLsbD, if_neg (by omega)]

/-- Eight rotations of nine bits to the left are one to the right. -/
theorem rlFn_eight_times (v : Byte) (c : Bool) : rlFn.uncurry^[8] (v, c) = rrFn v c := by
  have h := rlFn_nine_times (rrFn v c)
  rwa [Function.iterate_succ_apply, rlFn_rrFn] at h

/-! ### SRA as an arithmetic shift -/

/-- SRA shifts the byte right by one as a signed number (R124). -/
theorem sraFn_eq_sshiftRight (v : Byte) (c : Bool) : (sraFn v c).1 = v.sshiftRight 1 := by
  apply BitVec.eq_of_getLsbD_eq
  intro k hk
  rw [sraFn_eq_rrFn, rrFn_getLsbD, BitVec.getLsbD_sshiftRight, Nat.add_comm 1 k, BitVec.msb_eq_getLsbD_last]
  obtain rfl | hk7 : k = 7 ∨ k < 7 := by omega
  · rfl
  · have hlt : k + 1 < 8 := by omega
    simp [hk7.ne, hlt, hk.not_ge]

/-- The low bit of a byte is the remainder of the signed byte by 2. -/
theorem Byte.toInt_emod_two (v : Byte) : v.toInt % 2 = (v.getLsbD 0).toNat := by
  have hbit : (v.getLsbD 0).toNat = v.toNat % 2 := by
    rcases Nat.mod_two_eq_zero_or_one v.toNat with h | h <;> simp [BitVec.getLsbD, h]
  rw [hbit, BitVec.toInt_eq_toNat_cond]
  split <;> omega

end Sys2Proof.Machine
end

section
/-! SUPPORT. The obligations of the family of the source's rotates and shifts, each settled from the facts above. -/

open Sys2Proof Sys2Proof.Machine

namespace Sys2Proof.Proofs

/-- Settles O25: the state a rotate or shift leaves, at the byte and the carry of RL. -/
theorem rlResult : Obligations.RlResult := by
  intro i x save d s v res b1 b2 hi hr hres hw
  exact exec_shift_of_calls hi hr (congrArg some hres.symm) hw

/-- Settles O26: the state a rotate or shift leaves, at the byte and the carry of SRA. -/
theorem sraResult : Obligations.SraResult := by
  intro i x save d s v res b1 b2 hi hr hres hw
  exact exec_shift_of_calls hi hr (congrArg some hres.symm) hw

/-- Settles O43: nine rotations of nine bits are none, and eight are one to the right. -/
theorem nineRlRestoreByteAndCarry : Obligations.NineRlRestoreByteAndCarry := by
  intro i x save d s hi hb
  constructor
  · obtain ⟨t, ht, hbc⟩ := execTimes_rl_ram hi 9 hb
    rw [rlFn_nine_times] at hbc
    obtain ⟨hbyte, hcarry⟩ := Prod.mk.inj hbc
    exact ⟨t, ht, hbyte, hcarry⟩
  · obtain ⟨t, ht, hbc⟩ := execTimes_rl_ram hi 8 hb
    rw [State.byteAndCarry, State.byteAndCarry, rlFn_eight_times, rrFn, BitVec.or_comm] at hbc
    obtain ⟨hbyte, hcarry⟩ := Prod.mk.inj hbc
    exact ⟨t, ht, hbyte, hcarry⟩

/-- Settles O44: SRA stores the arithmetic shift of the byte, and carries out its low bit, the remainder. -/
theorem sraHalvesSigned : Obligations.SraHalvesSigned := by
  intro i x save d s hi hb
  have hres : storedByte i.toShape (s.bus.peek (i.ea s)) (s.flag .c) =
      some ((s.bus.peek (i.ea s)).sshiftRight 1) := by rw [hi, ← sraFn_eq_sshiftRight]; rfl
  obtain ⟨t, he, -, -, hpeek, hcarry⟩ := exec_shift_ram hi hb hres
  have hhalf : (t.bus.peek (i.ea s)).toInt = (s.bus.peek (i.ea s)).toInt / 2 := by
    rw [hpeek, BitVec.toInt_sshiftRight, Int.shiftRight_eq_div_pow]; rfl
  refine ⟨t, he, hhalf, ?_, ?_⟩
  · rw [hhalf, hcarry, carriedOut, ← Byte.toInt_emod_two, Int.mul_ediv_add_emod]
  · rw [hpeek, ← sraFn_eq_sshiftRight _ (s.flag .c), sraFn_eq_rrFn, rrFn_getLsbD, if_pos rfl]

end Sys2Proof.Proofs
end

section
/-! SUPPORT. SET and RES: the whole state one of them leaves, F as it was. -/

namespace Sys2Proof.Machine

/-- CORE after SET or RES: the copy register, the marker and the cycle counter are written, nothing else, so that F
keeps all its bits (R132, R147). -/
theorem coreAfter_modify {p : Shape} {x : Index} {b : BitVec 3} {save : Option Reg8} {d v res : Byte} {c : CoreState}
    (hp : p = .set x b save d ∨ p = .res x b save d) (hres : storedByte p v (c.flag .c) = some res) :
    coreAfter p v c = { c with
      regs := c.regs.copied save res
      pfx := .none
      cyc := c.cyc + p.cost } := by
  obtain rfl | rfl := hp
  · cases hres
    cases save <;> rfl
  · cases hres
    cases save <;> rfl

/-- SET and RES complete once the read and the write of their address are answered. -/
theorem exec_modify_of_calls {i : Instr} {x : Index} {b : BitVec 3} {save : Option Reg8} {d v res : Byte} {s : State}
    {b1 b2 : Bus} (hi : i.toShape = .set x b save d ∨ i.toShape = .res x b save d)
    (hr : s.bus.read (resolveIndexed (s.index x) d) = .ok (v, b1))
    (hres : storedByte i.toShape v (s.flag .c) = some res)
    (hw : b1.write (resolveIndexed (s.index x) d) res = .ok b2) :
    exec i s = .next { s with
      regs := s.regs.copied save res
      pfx := .none
      cyc := s.cyc + i.cost
      bus := b2 } := by
  have hea : i.ea s = resolveIndexed (s.index x) d := by
    obtain hi | hi := hi <;> rw [Instr.ea, hi] <;> rfl
  rw [← hea] at hr hw
  rw [exec_stores hr hres hw, coreAfter_modify hi hres]
  rfl

end Sys2Proof.Machine
end

section
/-! SUPPORT. The obligation of the family of SET, settled from the facts above. -/

open Sys2Proof Sys2Proof.Machine

namespace Sys2Proof.Proofs

/-- Settles O27: the state SET or RES leaves, at the byte and the cost of SET. -/
theorem setResult : Obligations.SetResult := by
  intro i x b save d s v res b1 b2 hi hr hres hw
  have hstored : storedByte i.toShape v (s.flag .c) = some res := by rw [hi, hres]; rfl
  have hcost : i.cost = Config.costSet := by rw [Instr.cost, hi]; rfl
  rw [exec_modify_of_calls (.inl hi) hr hstored hw, hcost]

end Sys2Proof.Proofs
end

section
/-! SUPPORT. RLC and RRC as the rotates through carry, RL and RR, with the bit that leaves the byte as the carry taken
in. -/

namespace Sys2Proof.Machine

/-- RLC is RL with bit 7 as the carry taken in (R141). -/
theorem rlcFn_eq_rlFn (v : Byte) (c : Bool) : rlcFn v c = rlFn v (v.getLsbD 7) := by
  have hin : v >>> 7 = if v.getLsbD 7 then 1#8 else 0#8 := by
    refine BitVec.eq_of_getLsbD_eq fun k _ => ?_
    have hite : (if v.getLsbD 7 then 1#8 else 0#8).getLsbD k = (v.getLsbD 7 && decide (0 = k)) :=
      getLsbD_ite_twoPow (v.getLsbD 7) (j := 0) (by decide) k
    rw [BitVec.getLsbD_ushiftRight, hite]
    cases k with
    | zero => simp
    | succ k => simp [BitVec.getLsbD_of_ge v (7 + (k + 1)) (by omega)]
  rw [rlcFn, rlFn, hin]

/-- RRC is RR with bit 0 as the carry taken in (R142). -/
theorem rrcFn_eq_rrFn (v : Byte) (c : Bool) : rrcFn v c = rrFn v (v.getLsbD 0) := by
  have hin : v <<< 7 = if v.getLsbD 0 then 0x80#8 else 0#8 := by
    refine BitVec.eq_of_getLsbD_eq fun k hk => ?_
    have hite : (if v.getLsbD 0 then 0x80#8 else 0#8).getLsbD k = (v.getLsbD 0 && decide (7 = k)) :=
      getLsbD_ite_twoPow (v.getLsbD 0) (j := 7) (by decide) k
    rw [BitVec.getLsbD_shiftLeft, hite]
    obtain rfl | hk7 : k = 7 ∨ k < 7 := by omega
    · simp
    · simp [hk7, hk7.ne']
  rw [rrcFn, rrFn, hin]

end Sys2Proof.Machine
end

section
/-! SUPPORT. The obligations of the family of file 44, the remaining indexed bit operations, settled from the facts
above. -/

open Sys2Proof Sys2Proof.Machine

namespace Sys2Proof.Proofs

/-- Settles O28: the state a rotate or shift leaves; the byte of RLC is that of RL with bit 7 taken in. -/
theorem rlcResult : Obligations.RlcResult := by
  intro i x save d s v res b1 b2 hi hr hres hw
  have hbyte : (rlcFn v (s.flag .c)).1 = res := by rw [rlcFn_eq_rlFn, hres, rlFn]
  exact exec_shift_of_calls hi hr (congrArg some hbyte) hw

/-- Settles O29: the state a rotate or shift leaves; the byte of RRC is that of RR with bit 0 taken in. -/
theorem rrcResult : Obligations.RrcResult := by
  intro i x save d s v res b1 b2 hi hr hres hw
  have hbyte : (rrcFn v (s.flag .c)).1 = res := by rw [rrcFn_eq_rrFn, hres, rrFn]
  exact exec_shift_of_calls hi hr (congrArg some hbyte) hw

/-- Settles O30: the state a rotate or shift leaves, at the byte and the carry of RR. -/
theorem rrResult : Obligations.RrResult := by
  intro i x save d s v res b1 b2 hi hr hres hw
  exact exec_shift_of_calls hi hr (congrArg some hres.symm) hw

/-- Settles O31: the state a rotate or shift leaves, at the byte and the carry of SLA. -/
theorem slaResult : Obligations.SlaResult := by
  intro i x save d s v res b1 b2 hi hr hres hw
  exact exec_shift_of_calls hi hr (congrArg some hres.symm) hw

/-- Settles O32: the state a rotate or shift leaves, at the byte and the carry of SLL. -/
theorem sllResult : Obligations.SllResult := by
  intro i x save d s v res b1 b2 hi hr hres hw
  exact exec_shift_of_calls hi hr (congrArg some hres.symm) hw

/-- Settles O33: the state a rotate or shift leaves, at the byte and the carry of SRL. -/
theorem srlResult : Obligations.SrlResult := by
  intro i x save d s v res b1 b2 hi hr hres hw
  exact exec_shift_of_calls hi hr (congrArg some hres.symm) hw

/-- Settles O34: the state SET or RES leaves, at the byte and the cost of RES. -/
theorem resResult : Obligations.ResResult := by
  intro i x b save d s v res b1 b2 hi hr hres hw
  have hstored : storedByte i.toShape v (s.flag .c) = some res := by rw [hi, hres]; rfl
  have hcost : i.cost = Config.costGk := by rw [Instr.cost, hi]; rfl
  rw [exec_modify_of_calls (.inr hi) hr hstored hw, hcost]

end Sys2Proof.Proofs
end

section
/-! SUPPORT. The cost of an instruction by its operand form, and what `step()` returns in each of its outcomes. -/

namespace Sys2Proof

@[simp] theorem Instr.cost_ofShape (p : Shape) : (Instr.ofShape p).cost = p.cost := by
  rw [Instr.cost, Instr.toShape_ofShape]

/-- Every rotate or shift costs 23: SRA in the source, the others by default (R198, D9). -/
theorem Shape.cost_shift (k : ShiftKind) (x : Index) (save : Option Reg8) (d : Byte) :
    (Shape.shift k x save d).cost = 23 := by
  cases k <;> rfl

namespace Machine

variable {s : State}

/-- A step that completes returns the growth of the cycle counter (R199). -/
theorem stepReturn_of_next {t : State} (h : step s = .next t) : stepReturn s = some (t.cyc - s.cyc) := by
  rw [stepReturn, h]

theorem stepReturn_of_fault {f : Fault} (h : step s = .fault f) : stepReturn s = none := by
  rw [stepReturn, h]

theorem stepReturn_of_refused {r : Refusal} (h : step s = .refused r) : stepReturn s = none := by
  rw [stepReturn, h]

/-- A step that completes the instruction at pc adds its cost, and the fetch adds none (R105, R199). -/
theorem stepWith_cyc_of_readBytes {admitGk : Bool} {t : State} {bytes : List Byte} {b4 : Bus} {i : Instr}
    (hr : s.bus.readBytes s.pc 4 = .ok (bytes, b4)) (hd : decodeWith admitGk bytes = .instr i [])
    (h : stepWith admitGk s = .next t) : t.cyc = s.cyc + i.cost := by
  rw [stepWith_of_readBytes hr hd] at h
  rw [exec_cyc h, fetchedState_cyc]

end Machine
end Sys2Proof
end

section
/-! SUPPORT. The obligations of the cycle costs, settled from the facts above. -/

open Sys2Proof Sys2Proof.Machine

namespace Sys2Proof.Proofs

/-- Settles O18: a completed step returns the growth of cyc, which is the cost of the instruction at pc. -/
theorem stepReturnsCost : Obligations.StepReturnsCost := by
  refine ⟨fun s t bytes b4 i hr hd h => ?_, fun _ _ => stepReturn_of_fault, fun _ _ => stepReturn_of_refused⟩
  have hcyc : t.cyc = s.cyc + i.cost := stepWith_cyc_of_readBytes hr hd h
  refine ⟨hcyc, ?_⟩
  rw [stepReturn_of_next h, hcyc, Nat.add_sub_cancel_left]

/-- Settles O19: the cost of a table row is that of its operand form. -/
theorem costTable : Obligations.CostTable := by
  unfold Obligations.CostTable
  simp only [Instr.cost_ofShape]
  exact ⟨fun _ _ _ _ => rfl, Shape.cost_shift .sra, fun _ _ _ _ => rfl, fun _ _ _ => rfl, rfl, Shape.cost_shift,
    fun _ _ _ _ => rfl⟩

end Sys2Proof.Proofs
end
